-- ==== Sys2Proof/Word.lean ====
section
/-! DEFINITION. The widths the spec fixes: bytes, 7-bit radio addresses, 16-bit operands, 32-bit command words. -/

namespace Sys2Proof

/-- One byte, `DATA_W` = 8 (00_scope R5). Bit 0 is the least significant (00_scope R6). -/
abbrev Byte := BitVec 8

/-- A radio register address, `ADDR_W` = 7 (00_scope R5, 20_memory R60). -/
abbrev Addr := BitVec 7

/-- The 16-bit operand `w` of a command word (30_encoding R120). -/
abbrev Half := BitVec 16

/-- A host command word, `CMD_W` = 32 (00_scope R5, 30_encoding R120). -/
abbrev CmdWord := BitVec 32

end Sys2Proof
end

