-- ==== Sys2Proof/Config.lean ====
section
/-! DEFINITION. The implementation parameters of 00_scope R5, and the free values: constants without a body,
so that nothing can be proved of the value they take. -/

namespace Sys2Proof

/-- `DUMMY`: the byte sent while a read transaction clocks data in (00_scope R5, 40_register_interface R146). -/
def Config.dummy : Byte := 0x00

/-- `VERSION_EXPECTED`: the identity constant (00_scope R5, 20_memory R77). -/
def Config.versionExpected : Byte := 0x12

/-- `MAX_PAYLOAD`: the longest packet, in bytes (00_scope R5). -/
def Config.maxPayload : Nat := 255

/-- `FXOSC`: the divisor of the frequency law (00_scope R5, 42_radio_driver R180). -/
def Config.fxosc : Nat := 32000000

/-- `FRF_SHIFT`: the power of two in the frequency law (00_scope R5, 42_radio_driver R180). -/
def Config.frfShift : Nat := 19

/-- `T_RESET_LOW`: the least number of time units the reset line is held low (00_scope R5, 41_mode_fsm R166). -/
def Config.tResetLow : Nat := 10

/-- `T_SETTLE`: OPEN, at least 0 time units (00_scope R5). A free value: log entry 10. -/
opaque Config.tSettle : Nat

/-- `IRQ_RXDONE`: the mask of the "receive done" bit, a parameter with this value (00_scope R5, 30_encoding R110).
PRESUMED by the spec from general knowledge (93_implementation_defined G1): log entry 13. -/
def Config.irqRxDone : Byte := 0x40

/-- `IRQ_CRCERR`: the mask of the "payload CRC error" bit (00_scope R5, 30_encoding R110). Log entry 13. -/
def Config.irqCrcErr : Byte := 0x20

/-- `IRQ_TXDONE`: the mask of the "transmit done" bit (00_scope R5, 30_encoding R110). Log entry 13. -/
def Config.irqTxDone : Byte := 0x08

/-- `PACK_MC1(bw, cr)`: OPEN, the byte written to ModemConfig1 (00_scope R5, 30_encoding R113). Log entry 10. -/
opaque Config.packMc1 (bw cr : Nat) : Byte

/-- `PACK_MC2(sf, crc)`: OPEN, the byte written to ModemConfig2 (00_scope R5, 30_encoding R113). Log entry 10. -/
opaque Config.packMc2 (sf : Nat) (crc : Bool) : Byte

/-- `PACK_PA(power)`: OPEN, the byte written to PaConfig (00_scope R5, 30_encoding R113). Log entry 10. -/
opaque Config.packPa (power : Nat) : Byte

/-- `FIFO_SIZE`: OPEN, the number of byte locations of the radio's FIFO, at most 256 (00_scope R5, 20_memory R61,
93_implementation_defined U9). Only the premises on the radio read it. A free value: log entry 10. -/
opaque Config.fifoSize : Fin 257

/-- What the radio answers to the transfers that come after the listed answers of State (20_memory R82:
"every `Xfer` returns a byte the radio chooses"); `none` is a transfer that never completes
(40_register_interface R145). A free value: log entry 2. -/
opaque Config.radioReply (tick : Nat) : Option Byte

/-- The levels the line `irq` takes before a step that comes after the listed ones of State (10_state R37,
43_event_decoder R200). A free value: log entry 3. -/
opaque Config.irqSamples (tick : Nat) : List Bool

/-- A byte of the host's send buffer that the offered payload does not list (10_state R41: the buffer is the
host's); `events` is the length of the trace at the read, so that two reads are not forced to agree.
A free value: log entry 6. -/
opaque Config.hostByte (events index : Nat) : Byte

end Sys2Proof
end

