-- ==== Sys2Proof/Syntax.lean ====
section
/-! DEFINITION. The instruction set: one constructor per row of spec/opcode_table.json, operands at their widths. -/

namespace Sys2Proof

/-- The operands of SETMODE: the four RadioModes of 10_state R20. PreSleep is no RadioMode. -/
inductive RadioMode where
  | sleep
  | standby
  | transmit
  | receiveContinuous
deriving DecidableEq, Repr

/-- The event kinds `k` = 1, 2, 3 of 30_encoding R121. -/
inductive EventKind where
  | txDone
  | rxDone
  | crcError
deriving DecidableEq, Repr

/-- One constructor per row of spec/opcode_table.json. The first sixteen are the host commands of
30_encoding R121 and the pseudo-commands of R127, the next four the radio-side frames of R101 to R104,
the last the hardware-started service sequence of 43_event_decoder R202. -/
inductive Instr where
  | wrreg (addr : Addr) (value : Byte)
  | rdreg (addr : Addr)
  | wrfifo (n : Byte)
  | rdfifo (n : Byte)
  | reset
  | init
  | setmode (m : RadioMode)
  | sleep
  | standby
  | listen
  | send (len : Half)
  | recv (cap : Half)
  | evtake (k : EventKind)
  | evclear (k : EventKind)
  | evpeek (k : EventKind)
  | irqmask (b : Bool)
  /-- Frame W1 (R101): header `0x80 | a`, then `v`. -/
  | w1 (a : Addr) (v : Byte)
  /-- Frame R1 (R102): header `a & 0x7F`, then the byte `d` (the block itself sends only `d` = DUMMY). -/
  | r1 (a : Addr) (d : Byte)
  /-- Frame WB (R103): header 0x80, then the payload. -/
  | wb (data : List Byte)
  /-- Frame RB (R104): header 0x00, then `n` dummies. -/
  | rb (n : Byte)
  | irqsvc
deriving DecidableEq, Repr

/-- The instruction whose words `i` spells: the pseudo-commands are SETMODE (30_encoding R127), a FIFO burst of
one byte has the wire bytes of a single access at address 0 (40_register_interface R141). -/
def Instr.canonical : Instr → Instr
  | .sleep => .setmode .sleep
  | .standby => .setmode .standby
  | .listen => .setmode .receiveContinuous
  | .wb [v] => .w1 0 v
  | .rb n => if n = 1 then .r1 0 0 else .rb n
  | i => i

end Sys2Proof
end

