-- ==== Sys2Proof/WellFormed.lean ====
section
/-! DEFINITION. Which terms of Instr spell an instruction: the side conditions the operand types do not carry. -/

namespace Sys2Proof

/-- RECV needs a capacity of at least 1 (30_encoding R122, 42_radio_driver R187); a burst carries at most
255 bytes (30_encoding R103). Every other side condition of R122 is in the operand's type. -/
def Instr.wf : Instr → Bool
  | .recv cap => cap != 0
  | .wb data => data.length ≤ Config.maxPayload
  | .wrreg _ _ | .rdreg _ | .wrfifo _ | .rdfifo _ | .reset | .init | .setmode _ | .sleep | .standby
  | .listen | .send _ | .evtake _ | .evclear _ | .evpeek _ | .irqmask _ | .w1 _ _ | .r1 _ _ | .rb _
  | .irqsvc => true

end Sys2Proof
end

