-- ==== Sys2Proof/Decode.lean ====
section
/-! DEFINITION. The decoder, total on command words and on the bytes of a frame, rejecting by name; after it the
encoder, from the same tables of 30_encoding. -/

namespace Sys2Proof

/-- What an instruction is written as: a 32-bit command word (30_encoding R120), the bytes of one radio-side
frame in the order sent (R101 to R104), or nothing (IRQSVC, R129). -/
inductive Code where
  | cmd (c : CmdWord)
  | spi (bytes : List Byte)
  | absent
deriving DecidableEq, Repr

/-- Why a code spells no instruction (30_encoding R125). -/
inductive Reject where
  /-- the field `op` is not listed -/
  | unknownOp
  /-- a must-be-zero bit is set, a burst length above 255 included -/
  | reservedBits
  /-- SETMODE with `m` in 2, 4, 6, 7 -/
  | badMode
  /-- an event command with `k` = 0 -/
  | badKind
  /-- RECV with `C` = 0 -/
  | zeroCapacity
  /-- bytes that are no frame of R101 to R104 -/
  | badFrame
  /-- nothing was written: no code selects IRQSVC (R129) -/
  | noCode
deriving DecidableEq, Repr

/-! ### Fields -/

/-- The field `op`, bits 31:24 (30_encoding R120). -/
def opField (c : CmdWord) : Byte := c.extractLsb' 24 8

/-- The field `a`, bits 23:16 (30_encoding R120). -/
def aField (c : CmdWord) : Byte := c.extractLsb' 16 8

/-- The field `w`, bits 15:0 (30_encoding R120). -/
def wField (c : CmdWord) : Half := c.extractLsb' 0 16

/-- The header byte of a write of address `a`: `a | 0x80` (30_encoding R100). -/
def writeHeader (a : Addr) : Byte := a.setWidth 8 ||| 0x80

/-- The header byte of a read of address `a`: `a & 0x7F` (30_encoding R100). -/
def readHeader (a : Addr) : Byte := a.setWidth 8 &&& 0x7F

/-- The numeric code of a mode (20_memory R65, 30_encoding R105). -/
def RadioMode.code : RadioMode → BitVec 3
  | .sleep => 0
  | .standby => 1
  | .transmit => 3
  | .receiveContinuous => 5

/-- The mode a code names; the codes 2, 4, 6, 7 name none (30_encoding R121). -/
def modeOfCode (m : BitVec 3) : Option RadioMode :=
  if m = 0 then some .sleep
  else if m = 1 then some .standby
  else if m = 3 then some .transmit
  else if m = 5 then some .receiveContinuous
  else none

/-- The field `k` of an event kind (30_encoding R121). -/
def EventKind.code : EventKind → BitVec 2
  | .txDone => 1
  | .rxDone => 2
  | .crcError => 3

/-- The event kind a field names; `k` = 0 names none (30_encoding R121). -/
def kindOfCode (k : BitVec 2) : Option EventKind :=
  if k = 1 then some .txDone
  else if k = 2 then some .rxDone
  else if k = 3 then some .crcError
  else none

/-! ### Decoder -/

/-- A command without operands: `a` and `w` must be 0 (30_encoding R122). -/
def decodeBare (i : Instr) (a : Byte) (w : Half) : Except Reject Instr :=
  if a = 0 ∧ w = 0 then .ok i else .error .reservedBits

/-- A command on an event kind: `a` = `k` in 1, 2, 3, and `w` = 0 (30_encoding R122). -/
def decodeKind (f : EventKind → Instr) (a : Byte) (w : Half) : Except Reject Instr :=
  if a.toNat < 4 ∧ w = 0 then
    match kindOfCode (a.setWidth 2) with
    | some k => .ok (f k)
    | none => .error .badKind
  else .error .reservedBits

/-- SETMODE: `a` = `m` in 0, 1, 3, 5, and `w` = 0 (30_encoding R122). -/
def decodeMode (a : Byte) (w : Half) : Except Reject Instr :=
  if a.toNat < 8 ∧ w = 0 then
    match modeOfCode (a.setWidth 3) with
    | some m => .ok (.setmode m)
    | none => .error .badMode
  else .error .reservedBits

/-- A command word by its fields: the rows of 30_encoding R121, R122, operands assembled by R123. The words of
the pseudo-commands SLEEP, STANDBY, LISTEN are SETMODE's (R127): log entry 14. -/
def decodeFields (op a : Byte) (w : Half) : Except Reject Instr :=
  match op.toNat with
  | 0x01 => if a.toNat < 128 ∧ w.toNat < 256 then .ok (.wrreg (a.setWidth 7) (w.setWidth 8)) else .error .reservedBits
  | 0x02 => if a.toNat < 128 ∧ w = 0 then .ok (.rdreg (a.setWidth 7)) else .error .reservedBits
  | 0x03 => if a = 0 ∧ w.toNat < 256 then .ok (.wrfifo (w.setWidth 8)) else .error .reservedBits
  | 0x04 => if a = 0 ∧ w.toNat < 256 then .ok (.rdfifo (w.setWidth 8)) else .error .reservedBits
  | 0x10 => decodeBare .reset a w
  | 0x11 => decodeBare .init a w
  | 0x12 => decodeMode a w
  | 0x13 => if a = 0 then .ok (.send w) else .error .reservedBits
  | 0x14 => if a = 0 then (if w = 0 then .error .zeroCapacity else .ok (.recv w)) else .error .reservedBits
  | 0x20 => decodeKind .evtake a w
  | 0x21 => decodeKind .evclear a w
  | 0x22 => decodeKind .evpeek a w
  | 0x23 => if a.toNat < 2 ∧ w = 0 then .ok (.irqmask (a.getLsbD 0)) else .error .reservedBits
  | _ => .error .unknownOp

/-- A 32-bit command word (30_encoding R120, R122). -/
def decodeCommand (c : CmdWord) : Except Reject Instr := decodeFields (opField c) (aField c) (wField c)

/-- The bytes of one chip-select bracket. Two bytes are a single access (R101, R102); otherwise only address 0
is burst (R103, R104, R129), with at most 255 bytes, and a read burst sends only dummies: log entry 15. -/
def decodeFrame : List Byte → Except Reject Instr
  | [h, v] => if h.getLsbD 7 then .ok (.w1 (h.setWidth 7) v) else .ok (.r1 (h.setWidth 7) v)
  | h :: rest =>
    if rest.length ≤ Config.maxPayload then
      if h = 0x80 then .ok (.wb rest)
      else if h = 0x00 ∧ rest.all (· == Config.dummy) then .ok (.rb (BitVec.ofNat 8 rest.length))
      else .error .badFrame
    else .error .badFrame
  | [] => .error .badFrame

/-- The decoder. -/
def decode : Code → Except Reject Instr
  | .cmd c => decodeCommand c
  | .spi bytes => decodeFrame bytes
  | .absent => .error .noCode

/-- The bytes of a table row's word of `nbits` bits, the first sent in the most significant byte: the rows of
format SPI number their bits so (bit 15 of the two-byte rows is the header's write flag, 30_encoding R101). -/
def tableCode (nbits w : Nat) : Code :=
  if nbits = 32 then .cmd (BitVec.ofNat 32 w)
  else if nbits = 16 then .spi [BitVec.ofNat 8 (w / 256), BitVec.ofNat 8 w]
  else if nbits = 8 then .spi [BitVec.ofNat 8 w]
  else .absent

/-- The instruction the decoder reads from a row's word, numbered as spec/opcode_table.json numbers it. -/
def decodeTableWord (nbits w : Nat) : Option Instr :=
  match decode (tableCode nbits w) with
  | .ok i => some i
  | .error _ => none

/-! ### Encoder -/

/-- A command word from its fields (30_encoding R120). -/
def commandWord (op a : Byte) (w : Half) : CmdWord := op ++ a ++ w

/-- The code of an instruction: 30_encoding R121 with the operands of R123 for the commands, R127 for the
pseudo-commands, R101 to R104 for the frames, nothing for IRQSVC (R129). -/
def encode : Instr → Code
  | .wrreg addr value => .cmd (commandWord 0x01 (addr.setWidth 8) (value.setWidth 16))
  | .rdreg addr => .cmd (commandWord 0x02 (addr.setWidth 8) 0)
  | .wrfifo n => .cmd (commandWord 0x03 0 (n.setWidth 16))
  | .rdfifo n => .cmd (commandWord 0x04 0 (n.setWidth 16))
  | .reset => .cmd (commandWord 0x10 0 0)
  | .init => .cmd (commandWord 0x11 0 0)
  | .setmode m => .cmd (commandWord 0x12 (m.code.setWidth 8) 0)
  | .sleep => .cmd (commandWord 0x12 (RadioMode.sleep.code.setWidth 8) 0)
  | .standby => .cmd (commandWord 0x12 (RadioMode.standby.code.setWidth 8) 0)
  | .listen => .cmd (commandWord 0x12 (RadioMode.receiveContinuous.code.setWidth 8) 0)
  | .send len => .cmd (commandWord 0x13 0 len)
  | .recv cap => .cmd (commandWord 0x14 0 cap)
  | .evtake k => .cmd (commandWord 0x20 (k.code.setWidth 8) 0)
  | .evclear k => .cmd (commandWord 0x21 (k.code.setWidth 8) 0)
  | .evpeek k => .cmd (commandWord 0x22 (k.code.setWidth 8) 0)
  | .irqmask b => .cmd (commandWord 0x23 (if b then 1 else 0) 0)
  | .w1 a v => .spi [writeHeader a, v]
  | .r1 a d => .spi [readHeader a, d]
  | .wb data => .spi (0x80 :: data)
  | .rb n => .spi (0x00 :: List.replicate n.toNat Config.dummy)
  | .irqsvc => .absent

/-! ### The table of 30_encoding R122 -/

/-- One row of 30_encoding R122: a word `c` is the row's command when `c & mask == word` and the side condition
of its operand `a`, `w` holds. -/
structure MatchRow where
  name : String
  word : CmdWord
  mask : CmdWord
  /-- the side condition, on the word -/
  side : CmdWord → Bool

/-- 30_encoding R122, row by row. -/
def matchTable : List MatchRow :=
  [ ⟨"WRREG", 0x01000000, 0xFF80FF00, fun _ => true⟩,
    ⟨"RDREG", 0x02000000, 0xFF80FFFF, fun _ => true⟩,
    ⟨"WRFIFO", 0x03000000, 0xFFFFFF00, fun _ => true⟩,
    ⟨"RDFIFO", 0x04000000, 0xFFFFFF00, fun _ => true⟩,
    ⟨"RESET", 0x10000000, 0xFFFFFFFF, fun _ => true⟩,
    ⟨"INIT", 0x11000000, 0xFFFFFFFF, fun _ => true⟩,
    ⟨"SETMODE", 0x12000000, 0xFFF8FFFF, fun c => [0, 1, 3, 5].contains (c.extractLsb' 16 3)⟩,
    ⟨"SEND", 0x13000000, 0xFFFF0000, fun _ => true⟩,
    ⟨"RECV", 0x14000000, 0xFFFF0000, fun c => c.extractLsb' 0 16 != 0⟩,
    ⟨"EVTAKE", 0x20000000, 0xFFFCFFFF, fun c => c.extractLsb' 16 2 != 0⟩,
    ⟨"EVCLEAR", 0x21000000, 0xFFFCFFFF, fun c => c.extractLsb' 16 2 != 0⟩,
    ⟨"EVPEEK", 0x22000000, 0xFFFCFFFF, fun c => c.extractLsb' 16 2 != 0⟩,
    ⟨"IRQMASK", 0x23000000, 0xFFFEFFFF, fun _ => true⟩ ]

/-- The word is the row's command (30_encoding R122). -/
def MatchRow.hits (r : MatchRow) (c : CmdWord) : Bool := c &&& r.mask == r.word && r.side c

/-- The row a decoded command belongs to: its mnemonic in 30_encoding R121. Frames and IRQSVC have none there. -/
def Instr.commandName : Instr → Option String
  | .wrreg _ _ => some "WRREG"
  | .rdreg _ => some "RDREG"
  | .wrfifo _ => some "WRFIFO"
  | .rdfifo _ => some "RDFIFO"
  | .reset => some "RESET"
  | .init => some "INIT"
  | .setmode _ | .sleep | .standby | .listen => some "SETMODE"
  | .send _ => some "SEND"
  | .recv _ => some "RECV"
  | .evtake _ => some "EVTAKE"
  | .evclear _ => some "EVCLEAR"
  | .evpeek _ => some "EVPEEK"
  | .irqmask _ => some "IRQMASK"
  | .w1 _ _ | .r1 _ _ | .wb _ | .rb _ | .irqsvc => none

end Sys2Proof
end

