-- ==== Sys2Proof/Machine/State.lean ====
section
/-! DEFINITION. The machine's state as plain data: the block's registers (10_state R20 to R33), what a running
context holds between two steps, the ports and the host's buffers, and the inputs still to come. -/

namespace Sys2Proof.Machine

/-- The owned radio mode (10_state R20): the four RadioModes and PreSleep. -/
inductive Mode where
  | preSleep
  | sleep
  | standby
  | transmit
  | receiveContinuous
deriving DecidableEq, Repr

/-- The 3-bit storage code 10_state R20 suggests: the wire codes, and 7 for PreSleep. -/
def Mode.storageCode : Mode → BitVec 3
  | .preSleep => 7
  | .sleep => 0
  | .standby => 1
  | .transmit => 3
  | .receiveContinuous => 5

/-- The RadioConfig record (10_state R23). Bandwidth code, coding rate, spreading factor and power have no width
in the spec: plain numbers, read only by the OPEN packing functions (log entry 10). -/
structure RadioConfig where
  frequency : BitVec 32
  bw : Nat
  cr : Nat
  sf : Nat
  crc : Bool
  preamble : BitVec 16
  power : Nat
deriving DecidableEq, Repr

/-- The error kinds of 60_exceptions R250. -/
inductive ErrorKind where
  | hardwareAbsent
  | oversizedPayload
  | truncatedReceive
  | crcFailure
  | protocolTimeout
  | busFault
  | noneEvent
deriving DecidableEq, Repr

/-- The status values of the result word (30_encoding R124). -/
inductive Status where
  | ok
  | none
  | okTruncated
  | hardwareAbsent
  | oversizedPayload
deriving DecidableEq, Repr

/-- The result word handed back when a command ends (30_encoding R124). -/
structure Result where
  data : Byte
  status : Status
deriving DecidableEq, Repr

/-- The events of the bus trace (00_scope R8) and the diagnostic output (10_state R39), in the order they happen.
An `xfer` holds the byte sent and the byte the radio returned. -/
inductive Event where
  | sel
  | xfer (out inp : Byte)
  | desel
  | rst (level : Bool)
  | delay (t : Nat)
  | diag (kind : ErrorKind)
deriving DecidableEq, Repr

/-- A command and the step it stands at (10_state R31). -/
structure SeqPos where
  cmd : Instr
  step : Nat
deriving DecidableEq, Repr

/-- Why an offer was turned away, nothing changing (93_implementation_defined U1, U2, U3). Log entry 4. -/
inductive Decline where
  /-- the word (or the placed bytes) spells no command: 30_encoding R125, U1 -/
  | noCommand
  /-- a bus command while `reset_done` = 0: 41_mode_fsm R171, U2 -/
  | beforeReset
  /-- host access to Mode (write) or IrqFlags: 40_register_interface R147, U3 -/
  | guardedAddress
deriving DecidableEq, Repr

/-- One offer of the host on the command port (10_state R34): the command word and what comes with it. `payload`
or `config` absent leaves the host's send buffer or record as it was; `freshRx` presents a receive buffer nothing
was written to (10_state R41). Log entries 5 and 6. -/
structure Offer where
  word : CmdWord
  payload : Option (List Byte)
  config : Option RadioConfig
  freshRx : Bool
deriving DecidableEq, Repr

/-- The host's receive buffer: (index, byte) pairs, indices strictly rising. An index that is not listed was not
written by the block and has no value here (log entry 7). -/
abbrev Memory := List Host.Cell

/-- Why a step could stop with a fault. No step of this model does: 60_exceptions R250 gives the one fatal kind
of the block as "nobody: a transfer that never completes", and such a transfer is a state (log entry 16). -/
inductive Fault where
  /-- Kind 6 of 60_exceptions R250. Raised by nothing (R256: "no code is ever delivered"). Safe. -/
  | busFault
deriving DecidableEq, Repr

/-- Why an instruction could have no meaning. -/
inductive Refusal where
  /-- Raised only by an arm of exec that has no meaning yet; there is none. Safe. -/
  | notModelled (mnemonic : String)
deriving DecidableEq, Repr

/-- The state of the block, its ports and the inputs still to come. -/
structure State where
  -- the block's registers, 10_state R20 to R33
  /-- R20: the owned radio mode -/
  mode : Mode
  /-- R21: a RESET has completed since power-on -/
  resetDone : Bool
  /-- R22: the last INIT passed the identity check -/
  initOk : Bool
  /-- R23: the RadioConfig last applied by INIT, or nothing -/
  cfg : Option RadioConfig
  /-- R24: event flag TransmitDone -/
  evTx : Bool
  /-- R25: event flag ReceiveDone -/
  evRx : Bool
  /-- R26: event flag CrcError -/
  evCrc : Bool
  /-- R27: the level of `irq` at the previous sample -/
  irqPrev : Bool
  /-- R28: a rising edge was seen and its service has not started -/
  irqPend : Bool
  /-- R29: while 1 the service may not start -/
  irqMask : Bool
  /-- R30: 1 from the start of IRQSVC to its end -/
  inService : Bool
  /-- R31: Idle (`none`) or the running command and the step it stands at -/
  seq : Option SeqPos
  /-- R32: chip-select; 1 between two steps only when a transfer never completed (log entry 16) -/
  cs : Bool
  /-- R33: the level of the radio's reset line -/
  nreset : Bool
  -- what a running context holds between two of its steps (log entry 12)
  /-- RECV's `L` (42_radio_driver R187) -/
  recvLen : Byte
  /-- RECV's `p` (42_radio_driver R187) -/
  recvPtr : Byte
  /-- `old` of the `mask_irq` bracket (43_event_decoder R212) -/
  maskOld : Bool
  /-- IRQSVC's `f` (43_event_decoder R202), held from its first transaction to its second -/
  svcFlags : Option Byte
  -- ports and the host's buffers
  /-- R34: what the host offers, one entry for each idle step; `none` is an idle step without an offer -/
  hostIn : List (Option Offer)
  /-- R41: the host's send buffer -/
  txBuf : List Byte
  /-- R34: the RadioConfig on the side input -/
  cfgIn : RadioConfig
  /-- R41: the host's receive buffer -/
  rxBuf : Memory
  /-- R35: what the last command handed back; `none` from its acceptance to its end (log entry 8) -/
  result : Option Result
  /-- the model's own: why the last offer was turned away (log entry 4) -/
  declined : Option Decline
  /-- the model's own: a frame placed on the bus service (log entry 9) -/
  busReq : Option (List Byte)
  /-- the model's own: the data bytes the last placed frame kept (log entry 9) -/
  kept : List Byte
  /-- the bus trace with the diagnostics, oldest first (log entry 8) -/
  trace : List Event
  -- inputs still to come (the model's own)
  /-- the radio's coming answers, `none` a transfer that never completes (log entry 2) -/
  replies : List (Option Byte)
  /-- how many answers were taken from Config.radioReply (log entry 2) -/
  replyTick : Nat
  /-- the levels `irq` takes before each coming step (log entry 3) -/
  irqIn : List (List Bool)
  /-- how many steps took their levels from Config.irqSamples (log entry 3) -/
  irqTick : Nat
deriving DecidableEq, Repr

/-- The power-on state (10_state R44, 70_reset_and_hazards R290). The fields that are not the block's registers
hold nothing: log entries 2, 3, 4, 5, 6, 7, 8, 9, 12. -/
def State.reset : State where
  mode := .preSleep
  resetDone := false
  initOk := false
  cfg := none
  evTx := false
  evRx := false
  evCrc := false
  irqPrev := false
  irqPend := false
  irqMask := false
  inService := false
  seq := none
  cs := false
  nreset := true
  recvLen := 0
  recvPtr := 0
  maskOld := false
  svcFlags := none
  hostIn := []
  txBuf := []
  cfgIn := { frequency := 0, bw := 0, cr := 0, sf := 0, crc := false, preamble := 0, power := 0 }
  rxBuf := []
  result := none
  declined := none
  busReq := none
  kept := []
  trace := []
  replies := []
  replyTick := 0
  irqIn := []
  irqTick := 0

end Sys2Proof.Machine
end

