-- ==== Sys2Proof/Machine/Operands.lean ====
section
/-! DEFINITION. Operands: the register map, the bytes written to particular registers, the two arithmetic laws,
the result word, the status outputs. -/

namespace Sys2Proof.Machine

/-- The eighteen registers of the map (20_memory R63). -/
inductive RadioReg where
  | fifo
  | mode
  | frfMsb
  | frfMid
  | frfLsb
  | paConfig
  | fifoAddrPtr
  | fifoTxBaseAddr
  | fifoRxBaseAddr
  | fifoRxCurrentAddr
  | irqFlags
  | rxNbBytes
  | modemConfig1
  | modemConfig2
  | preambleMsb
  | preambleLsb
  | payloadLength
  | version
deriving DecidableEq, Repr

/-- The address of a register (20_memory R63). -/
def RadioReg.addr : RadioReg → Addr
  | .fifo => 0x00
  | .mode => 0x01
  | .frfMsb => 0x06
  | .frfMid => 0x07
  | .frfLsb => 0x08
  | .paConfig => 0x09
  | .fifoAddrPtr => 0x0D
  | .fifoTxBaseAddr => 0x0E
  | .fifoRxBaseAddr => 0x0F
  | .fifoRxCurrentAddr => 0x10
  | .irqFlags => 0x12
  | .rxNbBytes => 0x13
  | .modemConfig1 => 0x1D
  | .modemConfig2 => 0x1E
  | .preambleMsb => 0x20
  | .preambleLsb => 0x21
  | .payloadLength => 0x22
  | .version => 0x42

/-! ### Modes -/

/-- The state of the mode machine a SETMODE of `m` leads to (41_mode_fsm R163). -/
def modeOf : RadioMode → Mode
  | .sleep => .sleep
  | .standby => .standby
  | .transmit => .transmit
  | .receiveContinuous => .receiveContinuous

/-- The byte SETMODE writes to Mode: `0x80 | code` (30_encoding R105). -/
def modeByte (m : RadioMode) : Byte := 0x80 ||| m.code.setWidth 8

/-! ### The frequency word -/

/-- `frf = floor(F * 2^19 / 32_000_000) mod 2^24` (42_radio_driver R180), the product in unbounded naturals. -/
def frfWord (frequency : BitVec 32) : BitVec 24 :=
  BitVec.ofNat 24 (frequency.toNat * 2 ^ Config.frfShift / Config.fxosc)

/-- `frf[23:16]` (30_encoding R106). -/
def frfMsb (c : RadioConfig) : Byte := (frfWord c.frequency).extractLsb' 16 8

/-- `frf[15:8]` (30_encoding R106). -/
def frfMid (c : RadioConfig) : Byte := (frfWord c.frequency).extractLsb' 8 8

/-- `frf[7:0]` (30_encoding R106). -/
def frfLsb (c : RadioConfig) : Byte := (frfWord c.frequency).extractLsb' 0 8

/-- `preamble[15:8]` (30_encoding R107). -/
def preambleMsb (c : RadioConfig) : Byte := c.preamble.extractLsb' 8 8

/-- `preamble[7:0]` (30_encoding R107). -/
def preambleLsb (c : RadioConfig) : Byte := c.preamble.extractLsb' 0 8

/-- The register writes of INIT's steps 3 to 12, in order (42_radio_driver R181; the bytes by 30_encoding R106,
R107, R108, R113). -/
def initWrites (c : RadioConfig) : List (RadioReg × Byte) :=
  [ (.frfMsb, frfMsb c),
    (.frfMid, frfMid c),
    (.frfLsb, frfLsb c),
    (.modemConfig1, Config.packMc1 c.bw c.cr),
    (.modemConfig2, Config.packMc2 c.sf c.crc),
    (.paConfig, Config.packPa c.power),
    (.preambleMsb, preambleMsb c),
    (.preambleLsb, preambleLsb c),
    (.fifoTxBaseAddr, 0x00),
    (.fifoRxBaseAddr, 0x00) ]

/-! ### Lengths -/

/-- RECV truncates exactly when `L ≥ C` (42_radio_driver R188). -/
def truncates (len : Byte) (cap : Half) : Bool := cap.toNat ≤ len.toNat

/-- The number of bytes RECV delivers: `L` when `L ≤ C - 1`, else `C - 1` (42_radio_driver R188). -/
def clampLen (len : Byte) (cap : Half) : Nat := if truncates len cap then cap.toNat - 1 else len.toNat

/-- The first `n` bytes of the host's send buffer, index 0 first (20_memory R62, R93). A byte the offered payload
does not list is a free value (log entry 6). -/
def payloadBytes (n : Nat) (s : State) : List Byte :=
  (List.range n).map fun i => (s.txBuf[i]?).getD (Config.hostByte s.trace.length i)

/-! ### Results and outputs -/

/-- The code of an error kind (60_exceptions R250). -/
def ErrorKind.code : ErrorKind → BitVec 8
  | .hardwareAbsent => 1
  | .oversizedPayload => 2
  | .truncatedReceive => 3
  | .crcFailure => 4
  | .protocolTimeout => 5
  | .busFault => 6
  | .noneEvent => 7

/-- The status byte (30_encoding R124); a failure's is `0x80 | code` (60_exceptions R250). -/
def Status.code : Status → Byte
  | .ok => 0x00
  | .none => 0x01
  | .okTruncated => 0x02
  | .hardwareAbsent => 0x80 ||| ErrorKind.hardwareAbsent.code
  | .oversizedPayload => 0x80 ||| ErrorKind.oversizedPayload.code

/-- The 16-bit result word: `data` in bits 15:8, `status` in bits 7:0 (30_encoding R124). -/
def Result.word (r : Result) : BitVec 16 := r.data ++ r.status.code

/-- The output `mode_o` (10_state R35, 41_mode_fsm R170). -/
def State.modeO (s : State) : Mode := s.mode

/-- The output `init_ok_o` (10_state R35). -/
def State.initOkO (s : State) : Bool := s.initOk

/-- The output `busy_o`: `seq` ≠ Idle or `in_service` = 1 (10_state R35). -/
def State.busyO (s : State) : Bool := s.seq.isSome || s.inService

end Sys2Proof.Machine
end

