-- ==== Sys2Proof/Machine/Ops.lean ====
section
/-! DEFINITION. The shared operations: the host's receive buffer, the bus service, the sequencer, the edge latch,
entry to and return from the interrupt service, failures. -/

namespace Sys2Proof.Machine

/-! ### The host's receive buffer (20_memory R62) -/

/-- The byte the block wrote at an index, if it wrote one. What an unlisted index reads as: nothing (log entry 7). -/
def Memory.read : Memory → Nat → Option Byte
  | [], _ => none
  | (k, v) :: m, a => if k = a then some v else Memory.read m a

/-- Write one byte, keeping the indices strictly rising. -/
def Memory.write : Memory → Nat → Byte → Memory
  | [], a, b => [(a, b)]
  | (k, v) :: m, a, b =>
    if a < k then (a, b) :: (k, v) :: m
    else if a = k then (a, b) :: m
    else (k, v) :: Memory.write m a b

/-- Write a run of bytes at rising indices from `a` (20_memory R62). -/
def Memory.writeRun : Memory → Nat → List Byte → Memory
  | m, _, [] => m
  | m, a, b :: bs => Memory.writeRun (Memory.write m a b) (a + 1) bs

/-- Every index of the memory is above `lo`, and they rise strictly. -/
def Memory.risesAbove : Nat → Memory → Bool
  | _, [] => true
  | lo, (k, _) :: m => lo < k && Memory.risesAbove k m

/-- The canonical form: the indices rise strictly, so that equal buffers are equal lists. -/
def Memory.wf : Memory → Bool
  | [] => true
  | (k, _) :: m => Memory.risesAbove k m

/-! ### The trace and the bus service (00_scope R7, 10_state R36, R39) -/

/-- Put one event on the trace. -/
def State.emit (e : Event) (s : State) : State := { s with trace := s.trace ++ [e] }

/-- `diag(code)`: one diagnostic, no state of the block changed (10_state R39). -/
def State.diag (k : ErrorKind) (s : State) : State := s.emit (.diag k)

/-- `Sel()`: `cs <- 1` (00_scope R7). -/
def State.sel (s : State) : State := { s.emit .sel with cs := true }

/-- `Desel()`: `cs <- 0` (00_scope R7). -/
def State.desel (s : State) : State := { s.emit .desel with cs := false }

/-- The radio's answer to the next transfer, `none` if it never completes (10_state R36). Log entry 2. -/
def State.nextReply (s : State) : Option Byte :=
  match s.replies with
  | r :: _ => r
  | [] => Config.radioReply s.replyTick

/-- The state after that answer was used up. -/
def State.dropReply (s : State) : State :=
  match s.replies with
  | _ :: rest => { s with replies := rest }
  | [] => { s with replyTick := s.replyTick + 1 }

/-- What a run of transfers leaves: the bytes the radio returned, whether all transfers completed, the state. -/
structure BusRun where
  got : List Byte
  done : Bool
  st : State

/-- `Xfer` of each byte in order. A transfer that never completes ends the run where it stands
(40_register_interface R145). -/
def xferAll : List Byte → State → BusRun
  | [], s => ⟨[], true, s⟩
  | b :: bs, s =>
    match s.nextReply with
    | none => ⟨[], false, s.dropReply⟩
    | some r =>
      let t := xferAll bs (s.dropReply.emit (.xfer b r))
      ⟨r :: t.got, t.done, t.st⟩

/-- One transaction: `Sel()`, the header, the bytes, `Desel()` (40_register_interface R140). The reply to the header
is dropped (R146). If a transfer never completes there is no `Desel()`: `cs` stays 1 (R145). -/
def transaction (header : Byte) (outs : List Byte) (s : State) : BusRun :=
  let t := xferAll (header :: outs) s.sel
  ⟨t.got.drop 1, t.done, if t.done then t.st.desel else t.st⟩

/-- `MemWrite(a, n, v)` (00_scope R7): the bytes the radio returns are discarded by the callers (R146). -/
def memWrite (a : Addr) (vs : List Byte) (s : State) : BusRun := transaction (writeHeader a) vs s

/-- `MemRead(a, n)` (00_scope R7). -/
def memRead (a : Addr) (n : Nat) (s : State) : BusRun :=
  transaction (readHeader a) (List.replicate n Config.dummy) s

/-- Go on with `k` on the bytes read when the transaction completed; else the context stays where it stands
(40_register_interface R145). -/
def BusRun.andThen (t : BusRun) (k : List Byte → State → State) : State :=
  if t.done then k t.got t.st else t.st

/-- The first byte of a single read. A completed read of one byte always has one. -/
def firstByte (got : List Byte) : Byte := got.headD 0

/-! ### The sequencer (10_state R31, R35) -/

/-- Take a command: `seq` names it and its first step; nothing is handed back yet. -/
def State.accept (i : Instr) (first : Nat) (s : State) : State :=
  { s with seq := some ⟨i, first⟩, result := none, declined := none }

/-- The step is complete: the next step of the command is `k` (10_state R31). -/
def State.advance (i : Instr) (k : Nat) (s : State) : State := { s with seq := some ⟨i, k⟩ }

/-- `seq <- Idle`, the result handed to the host (00_scope R7). -/
def State.finish (r : Result) (s : State) : State := { s with seq := none, result := some r }

/-- A command that ends normally with nothing to report (30_encoding R124). -/
def State.finishOk (s : State) : State := s.finish ⟨0, .ok⟩

/-- Turn an offer away: no transaction, no result, nothing of the block changes
(93_implementation_defined part 1). Log entry 4. -/
def State.decline (d : Decline) (s : State) : State := { s with result := none, declined := some d }

/-- `raise HardwareAbsent(info)`: the command ends with status `0x80 | 1`, `data` the byte read
(60_exceptions R250, R251). -/
def State.raiseHardwareAbsent (info : Byte) (s : State) : State := s.finish ⟨info, .hardwareAbsent⟩

/-- `raise OversizedPayload`: the command ends with status `0x80 | 2` (60_exceptions R250, R252). -/
def State.raiseOversizedPayload (s : State) : State := s.finish ⟨0, .oversizedPayload⟩

/-- A command that needs the radio: not before the first reset (41_mode_fsm R171). -/
def busAdmission (s : State) : Option Decline := if s.resetDone then none else some .beforeReset

/-- A command admitted whenever `seq` = Idle (41_mode_fsm R166, R171, 43_event_decoder R213). -/
def openAdmission (_ : State) : Option Decline := none

/-- One sequencer step of command `i` whose steps are `body`, starting at step `first`.
While the bus is held by a transfer that never completes, or the service runs, nothing of the main context moves
(20_memory R79, 70_reset_and_hazards R315) and an offer is not accepted (R300). When `seq` is Idle the command is an
offer: it is turned away, or taken and its first step done. When `seq` is at this command, its next step is done.
When another command runs the offer is not accepted. Log entries 1 and 17. -/
def runCommand (i : Instr) (first : Nat) (gate : State → Option Decline) (body : Nat → State → State)
    (s : State) : State :=
  if s.cs || s.inService then s
  else
    match s.seq with
    | none =>
      match gate s with
      | some d => s.decline d
      | none => body first (s.accept i first)
    | some p => if p.cmd = i then body p.step s else s

/-! ### The reset pulse (41_mode_fsm R166) -/

/-- The events of the pulse: the reset line low for at least `T_RESET_LOW`, then high, then the settle time
(41_mode_fsm R166). A `Delay` is a trace event (92_eei_decisions D5). -/
def resetPulse : List Event := [.rst false, .delay Config.tResetLow, .rst true, .delay Config.tSettle]

/-- The whole RESET sequence, one step (41_mode_fsm R166, 92_eei_decisions D30): `nreset` goes 0 and comes back to 1,
then `mode <- PreSleep ; reset_done <- 1 ; init_ok <- 0`. -/
def State.resetSequence (s : State) : State :=
  { s with trace := s.trace ++ resetPulse, nreset := true, mode := .preSleep, resetDone := true, initOk := false }

/-! ### Mode writes (41_mode_fsm R161) -/

/-- `MemWrite(0x01, 1, 0x80 | code(m)) ; mode <- m`, one step: the owned state changes only after the write
(41_mode_fsm R161, R169); then `k`. -/
def setModeThen (m : RadioMode) (k : State → State) (s : State) : State :=
  (memWrite RadioReg.mode.addr [modeByte m] s).andThen fun _ t => k { t with mode := modeOf m }

/-! ### The mask bracket (43_event_decoder R212) -/

/-- `old <- irq_mask ; irq_mask <- 1` (43_event_decoder R212). -/
def State.openMask (s : State) : State := { s with maskOld := s.irqMask, irqMask := true }

/-- `irq_mask <- old` (43_event_decoder R212). -/
def State.closeMask (s : State) : State := { s with irqMask := s.maskOld }

/-! ### The edge latch (43_event_decoder R200) -/

/-- There is a rising edge in the levels, the level before them being `prev` (43_event_decoder R200). -/
def hasRise : Bool → List Bool → Bool
  | _, [] => false
  | prev, l :: ls => (!prev && l) || hasRise l ls

/-- The level after the levels. -/
def lastLevel (prev : Bool) (ls : List Bool) : Bool := ls.getLast?.getD prev

/-- The levels `irq` takes before this step (log entry 3). -/
def State.nextLevels (s : State) : List Bool :=
  match s.irqIn with
  | ls :: _ => ls
  | [] => Config.irqSamples s.irqTick

/-- Sample `irq`: a rising edge sets `irq_pend`, whatever else holds; `irq_prev` takes the level
(43_event_decoder R200). -/
def sampleIrq (s : State) : State :=
  { s with
    irqPend := s.irqPend || hasRise s.irqPrev s.nextLevels
    irqPrev := lastLevel s.irqPrev s.nextLevels
    irqIn := s.irqIn.tail
    irqTick := if s.irqIn.isEmpty then s.irqTick + 1 else s.irqTick }

/-! ### Interrupt entry and return (60_exceptions R263, R265) -/

/-- The main context stands where a service may come: Idle, or between two steps of a command, outside step 0 of
INIT, RESET and the `mask_irq` bracket of RECV (43_event_decoder R201). Log entry 11. -/
def seqAllowsService : Option SeqPos → Bool
  | none => true
  | some p =>
    match p.cmd with
    | .reset => false
    | .recv _ => false
    | .init => p.step != 0
    | _ => true

/-- The service starts when all of these hold (43_event_decoder R201). -/
def State.serviceMayStart (s : State) : Bool :=
  s.resetDone && (!s.cs && (!s.inService && (!s.irqMask && (s.irqPend && seqAllowsService s.seq))))

/-- Entry: `irq_pend <- 0 ; in_service <- 1`; `seq` is held, nothing is saved (60_exceptions R263,
43_event_decoder R202). -/
def State.enterService (s : State) : State := { s with irqPend := false, inService := true }

/-- Return: `in_service <- 0`; the main context goes on from the held `seq` (60_exceptions R265). -/
def State.leaveService (s : State) : State := { s with inService := false, svcFlags := none }

end Sys2Proof.Machine
end

