-- ==== Sys2Proof/Machine/Arbiter.lean ====
section
/-! DEFINITION. The one arbiter of 20_memory R79: which context a step belongs to, and what the command port gives. -/

namespace Sys2Proof.Machine

/-- The host's offer at the port with its side inputs (10_state R34, R41): the buffers the offer brings are in
place, the offer is off the list. -/
def State.takeOffer (o : Offer) (rest : List (Option Offer)) (s : State) : State :=
  { s with
    hostIn := rest
    txBuf := o.payload.getD s.txBuf
    cfgIn := o.config.getD s.cfgIn
    rxBuf := if o.freshRx then [] else s.rxBuf }

/-- What the main context does with a step when nothing runs: take the host's next offer. A word that spells no
command is turned away (30_encoding R125). -/
def fetchOffer (s : State) : Option Instr × State :=
  match s.hostIn with
  | [] => (none, s)
  | none :: rest => (none, { s with hostIn := rest })
  | some o :: rest =>
    match decodeCommand o.word with
    | .ok i => (some i, s.takeOffer o rest)
    | .error _ => (none, (s.takeOffer o rest).decline .noCommand)

/-- A frame placed on the bus service: taken off, and turned away when its bytes are no frame. Log entry 9. -/
def fetchFrame (bytes : List Byte) (s : State) : Option Instr × State :=
  match decodeFrame bytes with
  | .ok i => (some i, { s with busReq := none })
  | .error _ => (none, { s with busReq := none }.decline .noCommand)

/-- Which instruction the step runs, and from which state. A bus held by a transfer that never completes gives the
step to nobody (70_reset_and_hazards R315); a service goes before the main context's next step (43_event_decoder
R201, 60_exceptions R261) and is not interrupted by it (43_event_decoder R202); then a placed frame, the running
command at its position (10_state R31), the host's next offer (70_reset_and_hazards R300). -/
def arbitrate (s : State) : Option Instr × State :=
  if s.cs then (none, s)
  else if s.inService || s.serviceMayStart then (some .irqsvc, s)
  else
    match s.busReq with
    | some bytes => fetchFrame bytes s
    | none =>
      match s.seq with
      | some p => (some p.cmd, s)
      | none => fetchOffer s

end Sys2Proof.Machine
end

