-- ==== Sys2Proof/Machine/Flags.lean ====
section
/-! DEFINITION. The three event flags (10_state R46), the decode of IrqFlags and what each event does. -/

namespace Sys2Proof.Machine

/-- The result of decoding one read of IrqFlags (00_scope R8). -/
inductive IrqEvent where
  | none
  | transmitDone
  | receiveDone
  | crcError
deriving DecidableEq, Repr

/-- The decode over any three masks, first match wins (43_event_decoder R204): CrcError if crc and not rx, then
ReceiveDone if rx and not crc, then TransmitDone if tx, else None. -/
def decodeWith (rxMask crcMask txMask f : Byte) : IrqEvent :=
  let crc := f &&& crcMask != 0
  let rx := f &&& rxMask != 0
  let tx := f &&& txMask != 0
  if crc && !rx then .crcError
  else if rx && !crc then .receiveDone
  else if tx then .transmitDone
  else .none

/-- `decode(f)` with the block's masks (43_event_decoder R204, 30_encoding R110). -/
def decodeEvent (f : Byte) : IrqEvent := decodeWith Config.irqRxDone Config.irqCrcErr Config.irqTxDone f

/-- `flag(k)` (43_event_decoder R209). -/
def State.flag (k : EventKind) (s : State) : Bool :=
  match k with
  | .txDone => s.evTx
  | .rxDone => s.evRx
  | .crcError => s.evCrc

/-- `flag(k) <- b` (43_event_decoder R209). -/
def State.setFlag (k : EventKind) (b : Bool) (s : State) : State :=
  match k with
  | .txDone => { s with evTx := b }
  | .rxDone => { s with evRx := b }
  | .crcError => { s with evCrc := b }

/-- The automatic edge: Transmit to Standby on TransmitDone, no other mode moves (41_mode_fsm R164). -/
def autoEdge (m : Mode) : Mode := if m = .transmit then .standby else m

/-- `apply(e)` (43_event_decoder R205). -/
def applyEvent (e : IrqEvent) (s : State) : State :=
  match e with
  | .transmitDone => { s.setFlag .txDone true with mode := autoEdge s.mode }
  | .receiveDone => s.setFlag .rxDone true
  | .crcError => (s.setFlag .crcError true).diag .crcFailure
  | .none => s.diag .noneEvent

/-- The result of reading a flag: Ok when it was 1, else None (30_encoding R124, 43_event_decoder R209, R211). -/
def flagResult (b : Bool) : Result := ⟨0, if b then .ok else .none⟩

end Sys2Proof.Machine
end

