-- ==== Sys2Proof/Machine/EventModel.lean ====
section
/-! DEFINITION. The Event Model: the service sequence IRQSVC and the commands on the event flags
(43_event_decoder). -/

namespace Sys2Proof.Machine

/-- IRQSVC's step 1: `f <- MemRead(0x12, 1)` (43_event_decoder R202). -/
def serviceRead (s : State) : State :=
  (memRead RadioReg.irqFlags.addr 1 s).andThen fun got t => { t with svcFlags := some (firstByte got) }

/-- IRQSVC's step 2: write 0xFF to IrqFlags whatever `f` was (43_event_decoder R202, R203), decode, apply, return. -/
def serviceClear (f : Byte) (s : State) : State :=
  (memWrite RadioReg.irqFlags.addr [0xFF] s).andThen fun _ t => (applyEvent (decodeEvent f) t).leaveService

/-- One step of IRQSVC: nothing while a transfer never completes; its second transaction when the first is done;
its start when 43_event_decoder R201 allows it; else it does not start. Log entry 18. -/
def irqsvcStep (s : State) : State :=
  if s.cs then s
  else if s.inService then
    match s.svcFlags with
    | some f => serviceClear f s
    | none => serviceRead s
  else if s.serviceMayStart then serviceRead s.enterService
  else s

/-- IRQSVC (43_event_decoder R202). -/
def execIrqsvc (s : State) : Host.Outcome State Fault Refusal := .next (irqsvcStep s)

/-- EVTAKE's one step: `v <- flag(k) ; flag(k) <- 0` (43_event_decoder R209). -/
def evtakeStep (k : EventKind) : Nat → State → State
  | 1, s => (s.setFlag k false).finish (flagResult (s.flag k))
  | _, s => s

/-- EVTAKE (43_event_decoder R209), admitted whatever `reset_done` is (R213). -/
def execEvtake (k : EventKind) (s : State) : Host.Outcome State Fault Refusal :=
  .next (runCommand (.evtake k) 1 openAdmission (evtakeStep k) s)

/-- EVCLEAR's one step: `flag(k) <- 0` (43_event_decoder R210). -/
def evclearStep (k : EventKind) : Nat → State → State
  | 1, s => (s.setFlag k false).finishOk
  | _, s => s

/-- EVCLEAR (43_event_decoder R210). -/
def execEvclear (k : EventKind) (s : State) : Host.Outcome State Fault Refusal :=
  .next (runCommand (.evclear k) 1 openAdmission (evclearStep k) s)

/-- EVPEEK's one step (43_event_decoder R211). -/
def evpeekStep (k : EventKind) : Nat → State → State
  | 1, s => s.finish (flagResult (s.flag k))
  | _, s => s

/-- EVPEEK (43_event_decoder R211). -/
def execEvpeek (k : EventKind) (s : State) : Host.Outcome State Fault Refusal :=
  .next (runCommand (.evpeek k) 1 openAdmission (evpeekStep k) s)

/-- IRQMASK's one step: `irq_mask <- b` (43_event_decoder R212). -/
def irqmaskStep (b : Bool) : Nat → State → State
  | 1, s => { s with irqMask := b }.finishOk
  | _, s => s

/-- IRQMASK (43_event_decoder R212). -/
def execIrqmask (b : Bool) (s : State) : Host.Outcome State Fault Refusal :=
  .next (runCommand (.irqmask b) 1 openAdmission (irqmaskStep b) s)

end Sys2Proof.Machine
end

