-- ==== Sys2Proof/Machine/Frames.lean ====
section
/-! DEFINITION. The radio-side frames W1, R1, WB, RB (30_encoding R101 to R104) as transactions of their own. -/

namespace Sys2Proof.Machine

/-- Perform one frame while the bus is free, and keep the data bytes a reading frame keeps; while a transfer never
completes no transaction starts (20_memory R79, 70_reset_and_hazards R315). Log entry 9. -/
def performFrame (reads : Bool) (run : State → BusRun) (s : State) : State :=
  if s.cs then s
  else { (run s).st with kept := if reads then (run s).got else [] }

/-- Frame W1: header `0x80 | a`, then `v`; every reply discarded (30_encoding R101). -/
def execW1 (a : Addr) (v : Byte) (s : State) : Host.Outcome State Fault Refusal :=
  .next (performFrame false (memWrite a [v]) s)

/-- Frame R1: header `a & 0x7F`, then `d`; the second reply is the result (30_encoding R102). -/
def execR1 (a : Addr) (d : Byte) (s : State) : Host.Outcome State Fault Refusal :=
  .next (performFrame true (transaction (readHeader a) [d]) s)

/-- Frame WB: header 0x80, then the payload, byte 0 first (30_encoding R103). A burst carries at most 255 bytes:
a longer one is no frame, and is turned away (30_encoding R125). -/
def execWb (data : List Byte) (s : State) : Host.Outcome State Fault Refusal :=
  .next (if data.length ≤ Config.maxPayload then performFrame false (memWrite RadioReg.fifo.addr data) s
    else s.decline .noCommand)

/-- Frame RB: header 0x00, then `n` dummies; the replies to them are the data (30_encoding R104). -/
def execRb (n : Byte) (s : State) : Host.Outcome State Fault Refusal :=
  .next (performFrame true (memRead RadioReg.fifo.addr n.toNat) s)

end Sys2Proof.Machine
end

