-- ==== Sys2Proof/Machine/ModeFsm.lean ====
section
/-! DEFINITION. The mode state machine: SETMODE, its pseudo-commands, RESET (41_mode_fsm). -/

namespace Sys2Proof.Machine

/-- SETMODE's one step (41_mode_fsm R161). -/
def setmodeStep (m : RadioMode) : Nat → State → State
  | 1, s => setModeThen m State.finishOk s
  | _, s => s

/-- SETMODE (41_mode_fsm R161), from every mode (R163). -/
def execSetmode (m : RadioMode) (s : State) : Host.Outcome State Fault Refusal :=
  .next (runCommand (.setmode m) 1 busAdmission (setmodeStep m) s)

/-- SLEEP is SETMODE Sleep (41_mode_fsm R167). -/
def execSleep (s : State) : Host.Outcome State Fault Refusal :=
  .next (runCommand .sleep 1 busAdmission (setmodeStep .sleep) s)

/-- STANDBY is SETMODE Standby (41_mode_fsm R167). -/
def execStandby (s : State) : Host.Outcome State Fault Refusal :=
  .next (runCommand .standby 1 busAdmission (setmodeStep .standby) s)

/-- LISTEN is SETMODE ReceiveContinuous (41_mode_fsm R167). -/
def execListen (s : State) : Host.Outcome State Fault Refusal :=
  .next (runCommand .listen 1 busAdmission (setmodeStep .receiveContinuous) s)

/-- RESET's one step (41_mode_fsm R166, 92_eei_decisions D30). -/
def resetStep : Nat → State → State
  | 1, s => s.resetSequence.finishOk
  | _, s => s

/-- RESET, admitted always when `seq` = Idle (41_mode_fsm R166). -/
def execReset (s : State) : Host.Outcome State Fault Refusal :=
  .next (runCommand .reset 1 openAdmission resetStep s)

end Sys2Proof.Machine
end

