-- ==== Sys2Proof/Machine/RegInterface.lean ====
section
/-! DEFINITION. The Register Interface commands: WRREG, RDREG, WRFIFO, RDFIFO (40_register_interface). -/

namespace Sys2Proof.Machine

/-- WRREG is admitted after the first reset, but not to Mode (0x01) or IrqFlags (0x12)
(40_register_interface R147, 70_reset_and_hazards R316). -/
def wrregAdmission (addr : Addr) (s : State) : Option Decline :=
  if !s.resetDone then some .beforeReset
  else if addr = RadioReg.mode.addr ∨ addr = RadioReg.irqFlags.addr then some .guardedAddress
  else none

/-- RDREG is admitted after the first reset, but not from IrqFlags (0x12) (40_register_interface R142, R147). -/
def rdregAdmission (addr : Addr) (s : State) : Option Decline :=
  if !s.resetDone then some .beforeReset
  else if addr = RadioReg.irqFlags.addr then some .guardedAddress
  else none

/-- WRREG's one step: `MemWrite(addr, 1, value)` (40_register_interface R141). -/
def wrregStep (addr : Addr) (value : Byte) : Nat → State → State
  | 1, s => (memWrite addr [value] s).andThen fun _ t => t.finishOk
  | _, s => s

/-- WRREG (40_register_interface R141). -/
def execWrreg (addr : Addr) (value : Byte) (s : State) : Host.Outcome State Fault Refusal :=
  .next (runCommand (.wrreg addr value) 1 (wrregAdmission addr) (wrregStep addr value) s)

/-- RDREG's one step: `v <- MemRead(addr, 1)`, result `data` = `v` (40_register_interface R142). -/
def rdregStep (addr : Addr) : Nat → State → State
  | 1, s => (memRead addr 1 s).andThen fun got t => t.finish ⟨firstByte got, .ok⟩
  | _, s => s

/-- RDREG (40_register_interface R142). -/
def execRdreg (addr : Addr) (s : State) : Host.Outcome State Fault Refusal :=
  .next (runCommand (.rdreg addr) 1 (rdregAdmission addr) (rdregStep addr) s)

/-- WRFIFO's one step: `MemWrite(0x00, n, data)` from the host's buffer (40_register_interface R143). -/
def wrfifoStep (n : Byte) : Nat → State → State
  | 1, s => (memWrite RadioReg.fifo.addr (payloadBytes n.toNat s) s).andThen fun _ t => t.finishOk
  | _, s => s

/-- WRFIFO (40_register_interface R143). -/
def execWrfifo (n : Byte) (s : State) : Host.Outcome State Fault Refusal :=
  .next (runCommand (.wrfifo n) 1 busAdmission (wrfifoStep n) s)

/-- A FIFO burst read of `n` bytes into the host's buffer from index 0; each byte goes there as it comes
(10_state R41: "bytes stream … from `Xfer` to the host buffer"). Log entry 7. -/
def burstToHost (n : Nat) (s : State) : BusRun :=
  let t := memRead RadioReg.fifo.addr n s
  ⟨t.got, t.done, { t.st with rxBuf := Memory.writeRun t.st.rxBuf 0 t.got }⟩

/-- RDFIFO's one step: `MemRead(0x00, n)`, result `data` = `n` (40_register_interface R144). -/
def rdfifoStep (n : Byte) : Nat → State → State
  | 1, s => (burstToHost n.toNat s).andThen fun _ t => t.finish ⟨n, .ok⟩
  | _, s => s

/-- RDFIFO (40_register_interface R144). -/
def execRdfifo (n : Byte) (s : State) : Host.Outcome State Fault Refusal :=
  .next (runCommand (.rdfifo n) 1 busAdmission (rdfifoStep n) s)

end Sys2Proof.Machine
end

