-- ==== Sys2Proof/Machine/RadioDriver.lean ====
section
/-! DEFINITION. The Radio Driver's compound commands: INIT, SEND, RECV (42_radio_driver), one transaction a step. -/

namespace Sys2Proof.Machine

/-- The RadioConfig a running INIT works with: step 0 put it into `cfg` (42_radio_driver R181, 10_state R23). -/
def State.initConfig (s : State) : RadioConfig := s.cfg.getD s.cfgIn

/-- INIT's step 13: read Version and compare all 8 bits with 0x12 (42_radio_driver R181, R183). -/
def identityCheck (v : Byte) (s : State) : State :=
  if v = Config.versionExpected then { s with initOk := true }.finishOk
  else { s with initOk := false }.raiseHardwareAbsent v

/-- The steps of INIT as 42_radio_driver R181 numbers them. -/
def initStep (k : Nat) (s : State) : State :=
  match k with
  | 0 => { s with cfg := some s.cfgIn }.resetSequence.advance .init 1
  | 1 => setModeThen .sleep (State.advance .init 2) s
  | 2 => setModeThen .standby (State.advance .init 3) s
  | 13 => (memRead RadioReg.version.addr 1 s).andThen fun got t => identityCheck (firstByte got) t
  | _ =>
    match (initWrites s.initConfig)[k - 3]? with
    | some (r, v) => (memWrite r.addr [v] s).andThen fun _ t => t.advance .init (k + 1)
    | none => s

/-- INIT (42_radio_driver R181), admitted always when `seq` = Idle. -/
def execInit (s : State) : Host.Outcome State Fault Refusal :=
  .next (runCommand .init 0 openAdmission initStep s)

/-- The steps of SEND as 42_radio_driver R184 numbers them; the length test stands before step 1 (R185). -/
def sendStep (len : Half) (k : Nat) (s : State) : State :=
  match k with
  | 1 =>
    if len.toNat > Config.maxPayload then s.raiseOversizedPayload
    else setModeThen .standby (State.advance (.send len) 2) s
  | 2 => (memWrite RadioReg.fifoAddrPtr.addr [0x00] s).andThen fun _ t => t.advance (.send len) 3
  | 3 => (memWrite RadioReg.fifo.addr (payloadBytes len.toNat s) s).andThen fun _ t => t.advance (.send len) 4
  | 4 => (memWrite RadioReg.payloadLength.addr [len.setWidth 8] s).andThen fun _ t => t.advance (.send len) 5
  | 5 => setModeThen .transmit State.finishOk s
  | _ => s

/-- SEND (42_radio_driver R184). -/
def execSend (len : Half) (s : State) : Host.Outcome State Fault Refusal :=
  .next (runCommand (.send len) 1 busAdmission (sendStep len) s)

/-- RECV is admitted after the first reset (41_mode_fsm R171); a capacity of 0 spells no command
(30_encoding R125). -/
def recvAdmission (cap : Half) (s : State) : Option Decline :=
  if cap = 0 then some .noCommand else busAdmission s

/-- What RECV does with the length it read: keep it, and one diagnostic when it truncates (42_radio_driver R187). -/
def recvLength (cap : Half) (len : Byte) (s : State) : State :=
  let t := { s with recvLen := len }
  if truncates len cap then t.diag .truncatedReceive else t

/-- RECV's end: the bracket closed, `data` = `n`, Ok or OkTruncated (42_radio_driver R187). -/
def recvEnd (cap : Half) (s : State) : State :=
  s.closeMask.finish
    ⟨BitVec.ofNat 8 (clampLen s.recvLen cap), if truncates s.recvLen cap then .okTruncated else .ok⟩

/-- The steps of RECV as 42_radio_driver R187 numbers them, all inside the `mask_irq` bracket. The test of `ev_rx`
and its clearing stand before step 1. -/
def recvStep (cap : Half) (k : Nat) (s : State) : State :=
  match k with
  | 1 =>
    if s.evRx then
      (memRead RadioReg.rxNbBytes.addr 1 { s.openMask with evRx := false }).andThen fun got t =>
        (recvLength cap (firstByte got) t).advance (.recv cap) 2
    else s.finish ⟨0, .none⟩
  | 2 =>
    (memRead RadioReg.fifoRxCurrentAddr.addr 1 s).andThen fun got t =>
      { t with recvPtr := firstByte got }.advance (.recv cap) 3
  | 3 => (memWrite RadioReg.fifoAddrPtr.addr [s.recvPtr] s).andThen fun _ t => t.advance (.recv cap) 4
  | 4 => (burstToHost (clampLen s.recvLen cap) s).andThen fun _ t => recvEnd cap t
  | _ => s

/-- RECV (42_radio_driver R187). -/
def execRecv (cap : Half) (s : State) : Host.Outcome State Fault Refusal :=
  .next (runCommand (.recv cap) 1 (recvAdmission cap) (recvStep cap) s)

end Sys2Proof.Machine
end

