-- ==== Sys2Proof/Machine/Dispatch.lean ====
section
/-! DEFINITION. One arm per constructor of Instr, each one call of a meaning. -/

namespace Sys2Proof.Machine

def exec (i : Instr) (s : State) : Host.Outcome State Fault Refusal :=
  match i with
  | .wrreg addr value => Sys2Proof.Machine.execWrreg addr value s
  | .rdreg addr => Sys2Proof.Machine.execRdreg addr s
  | .wrfifo n => Sys2Proof.Machine.execWrfifo n s
  | .rdfifo n => Sys2Proof.Machine.execRdfifo n s
  | .reset => Sys2Proof.Machine.execReset s
  | .init => Sys2Proof.Machine.execInit s
  | .setmode m => Sys2Proof.Machine.execSetmode m s
  | .sleep => Sys2Proof.Machine.execSleep s
  | .standby => Sys2Proof.Machine.execStandby s
  | .listen => Sys2Proof.Machine.execListen s
  | .send len => Sys2Proof.Machine.execSend len s
  | .recv cap => Sys2Proof.Machine.execRecv cap s
  | .evtake k => Sys2Proof.Machine.execEvtake k s
  | .evclear k => Sys2Proof.Machine.execEvclear k s
  | .evpeek k => Sys2Proof.Machine.execEvpeek k s
  | .irqmask b => Sys2Proof.Machine.execIrqmask b s
  | .w1 a v => Sys2Proof.Machine.execW1 a v s
  | .r1 a d => Sys2Proof.Machine.execR1 a d s
  | .wb data => Sys2Proof.Machine.execWb data s
  | .rb n => Sys2Proof.Machine.execRb n s
  | .irqsvc => Sys2Proof.Machine.execIrqsvc s

end Sys2Proof.Machine
end

