-- ==== Sys2Proof/Machine/Step.lean ====
section
/-! DEFINITION. One step of the machine, and how an instruction is placed where the next step takes it. -/

namespace Sys2Proof.Machine

/-- One step: sample `irq` (43_event_decoder R200), then what the arbiter gives the step to. -/
def step (s : State) : Host.Outcome State Fault Refusal :=
  match arbitrate (sampleIrq s) with
  | (some i, t) => exec i t
  | (none, t) => .next t

/-- The state with the instruction placed so that the very next step runs it: a 32-bit word is the host's next offer
(10_state R34), an 8- or 16-bit row is a frame placed on the bus service (log entry 9). For that the bus must be free,
no service running or starting and no command running, and the line `irq` gives no level before the step.
Log entry 5. -/
def State.withFetchWord (s : State) (nbits w : Nat) : State :=
  let free : State :=
    { s with cs := false, inService := false, irqPend := false, seq := none, irqIn := [] :: s.irqIn, busReq := none }
  match tableCode nbits w with
  | .cmd c =>
    { free with hostIn := some { word := c, payload := none, config := none, freshRx := false } :: s.hostIn }
  | .spi bytes => { free with busReq := some bytes }
  | .absent => free

end Sys2Proof.Machine
end

