-- ==== Sys2Proof/Machine/Radio.lean ====
section
/-! DEFINITION. What the block may assume of the radio (20_memory R82 to R92), as premises over the bus trace. The
machine depends on none of it: every byte the radio answers is any value (92_eei_decisions D35). A point the spec leaves
open makes the radio unknown here and never contradicts a trace, but for the one that Radio.enter marks: log entry 19. -/

namespace Sys2Proof.Machine

/-- One complete transaction as the trace shows it: the bytes sent, the header first, and those returned. -/
structure Transaction where
  sent : List Byte
  got : List Byte
deriving DecidableEq, Repr

/-- What happens at the radio: a transaction or a reset pulse of the block, or an act of its own. An act of its own can
happen in every mode: the spec ties none of them to the mode the radio is known to be in
(93_implementation_defined U8, U15). `also` holds the flags, of all eight, set besides the one the rule names: the spec
forbids to rely on "at most one" (20_memory R88, 93_implementation_defined G4). -/
inductive RadioAct where
  /-- a complete transaction of the block -/
  | transaction (t : Transaction)
  /-- the reset input released after a low pulse (20_memory R92) -/
  | pulse
  /-- a transmission ends and is signalled (20_memory R86), after a change of mode too (U8) -/
  | transmitEnds (also : Byte)
  /-- a packet has come in: its first FIFO address, its bytes, whether its checksum failed (20_memory R88) -/
  | packet (start : Byte) (data : List Byte) (crcBad : Bool) (also : Byte)
  /-- flags other than the three named ones are set; no rule says when (20_memory R71) -/
  | otherFlags (bits : Byte)
  /-- a byte of a packet still arriving reaches the FIFO (40_register_interface R143) -/
  | byteArrives
deriving DecidableEq, Repr

/-- What the premises say of the radio. A register or FIFO byte that is not listed is any value
(93_implementation_defined U6); so is an unknown cursor or mode, and a flag in neither `flagsSet` nor `flagsClear`. -/
structure Radio where
  /-- registers the block wrote, or the radio by R88, by address -/
  regs : Memory
  /-- FIFO bytes, by FIFO address below FIFO_SIZE (20_memory R61) -/
  fifo : Memory
  /-- FifoAddrPtr -/
  cursor : Option Byte
  /-- the radio's real mode -/
  mode : Option RadioMode
  /-- the bits of IrqFlags known to be 1 (20_memory R71) -/
  flagsSet : Byte
  /-- the bits of IrqFlags known to be 0 -/
  flagsClear : Byte
  /-- how many rising edges the premises make it produce on `irq` (20_memory R90) -/
  edges : Nat
deriving DecidableEq, Repr

/-- Nothing is known of the radio, its flags included (70_reset_and_hazards R293, 93_implementation_defined U6). -/
def Radio.unknown : Radio :=
  { regs := [], fifo := [], cursor := none, mode := none, flagsSet := 0, flagsClear := 0, edges := 0 }

/-- Nothing is known any more: an effect that no rule of the spec gives. The edges produced so far remain. -/
def Radio.forget (r : Radio) : Radio := { Radio.unknown with edges := r.edges }

/-- FIFO bytes and cursor are not known any more. -/
def Radio.forgetFifo (r : Radio) : Radio := { r with fifo := [], cursor := none }

/-- The three named bits of IrqFlags (30_encoding R110). -/
def Radio.named : Byte := Config.irqRxDone ||| Config.irqCrcErr ||| Config.irqTxDone

/-- The radio sets these bits of IrqFlags and leaves the others (20_memory R71). -/
def Radio.setFlags (bits : Byte) (r : Radio) : Radio :=
  { r with flagsSet := r.flagsSet ||| bits, flagsClear := r.flagsClear &&& ~~~bits }

/-- The radio sets flags, a named one among them, and raises `irq` (20_memory R90). -/
def Radio.raiseFlags (bits : Byte) (r : Radio) : Radio := { r.setFlags bits with edges := r.edges + 1 }

/-- A write of `v` to IrqFlags: every bit whose written bit is 1 is 0, the others stay; 0xFF leaves all eight bits 0
(20_memory R71, R89). -/
def Radio.clearFlags (v : Byte) (r : Radio) : Radio :=
  { r with flagsSet := r.flagsSet &&& ~~~v, flagsClear := r.flagsClear ||| v }

/-- The address is one of the map's (20_memory R63). -/
def Radio.listed (a : Addr) : Bool :=
  [RadioReg.fifo, .mode, .frfMsb, .frfMid, .frfLsb, .paConfig, .fifoAddrPtr, .fifoTxBaseAddr, .fifoRxBaseAddr,
    .fifoRxCurrentAddr, .irqFlags, .rxNbBytes, .modemConfig1, .modemConfig2, .preambleMsb, .preambleLsb, .payloadLength,
    .version].any fun r => r.addr == a

/-- The registers that hold what a single write puts there (20_memory R83): those of the map the block writes,
but for Fifo, Mode, FifoAddrPtr and IrqFlags. -/
def Radio.holds (a : Addr) : Bool :=
  [RadioReg.frfMsb, .frfMid, .frfLsb, .paConfig, .fifoTxBaseAddr, .fifoRxBaseAddr, .modemConfig1, .modemConfig2,
    .preambleMsb, .preambleLsb, .payloadLength].any fun r => r.addr == a

/-- A mode the radio is known to be in, and that is not Sleep. -/
def Radio.awake : Option RadioMode → Bool
  | some .standby | some .transmit | some .receiveContinuous => true
  | some .sleep | none => false

/-- The radio is put in mode `m`, `none` for a byte that 20_memory R85 gives no mode. Registers and flags stay known only
between two modes other than Sleep: what the radio keeps in Sleep is not in the source (60_exceptions R273,
91_not_in_source N10). What a change of mode does to the FIFO and its cursor is not said: they are not known after it.
DESIGN CHOICE, unsafe: 20_memory R85 is taken as it stands for every edge, also for one the mode machine does not draw
(Sleep to Transmit, Transmit to Sleep), although 41_mode_fsm R163 and 93_implementation_defined U5 leave open whether the
radio accepts it: log entry 19. -/
def Radio.enter (m : Option RadioMode) (r : Radio) : Radio :=
  if Radio.awake r.mode && Radio.awake m then { r.forgetFifo with mode := m } else { r.forget with mode := m }

/-- The cursor after one byte moved; past the last location it is unspecified (20_memory R91,
93_implementation_defined U9). -/
def Radio.nextCursor (c : Option Byte) : Option Byte :=
  c.bind fun b => if b.toNat + 1 < Config.fifoSize.val then some (b + 1) else none

/-- A byte written through address 0x00 (20_memory R91). With an unknown cursor, or one past the last location, any
location may have changed. -/
def Radio.writeFifo (r : Radio) (v : Byte) : Radio :=
  match r.cursor with
  | some c =>
    if c.toNat < Config.fifoSize.val then
      { r with fifo := Memory.write r.fifo c.toNat v, cursor := Radio.nextCursor r.cursor }
    else r.forgetFifo
  | none => r.forgetFifo

/-- A single-byte write of a register other than Fifo: Mode by R85, FifoAddrPtr by R68, IrqFlags by R89, the rest by
R83. A write to an unlisted register, or to one the block only reads, has an unknown effect
(93_implementation_defined U4): nothing is known after it. -/
def Radio.writeReg (r : Radio) (a : Addr) (v : Byte) : Radio :=
  if a = RadioReg.mode.addr then r.enter (if v.getLsbD 7 then modeOfCode (v.setWidth 3) else none)
  else if a = RadioReg.fifoAddrPtr.addr then { r with cursor := some v }
  else if a = RadioReg.irqFlags.addr then r.clearFlags v
  else if Radio.holds a then { r with regs := Memory.write r.regs a.toNat v }
  else r.forget

/-- An answer `v` to a read of register `a` agrees with the premises: Version by R84, IrqFlags in the flags that are
known, the rest where a value is known. -/
def Radio.agrees (r : Radio) (a : Addr) (v : Byte) : Bool :=
  if a = RadioReg.version.addr then v == Config.versionExpected
  else if a = RadioReg.irqFlags.addr then v &&& r.flagsSet == r.flagsSet && v &&& r.flagsClear == 0
  else ((Memory.read r.regs a.toNat).map fun x => x == v).getD true

/-- A read of one byte `v` at register `a`: nothing when it contradicts the premises. A read of a register of the map has
no side effect (20_memory R95); what the radio does on one of an unlisted address is unspecified (R76), and nothing is
known after it. -/
def Radio.readReg (r : Radio) (a : Addr) (v : Byte) : Option Radio :=
  if Radio.listed a then (if r.agrees a v then some r else none) else some r.forget

/-- A run of bytes read through address 0x00: each agrees with what is known of its location (20_memory R91). -/
def Radio.readFifo : List Byte → Radio → Option Radio
  | [], r => some r
  | v :: vs, r =>
    let known := r.cursor.bind fun c => Memory.read r.fifo c.toNat
    if (known.map fun x => x == v).getD true then Radio.readFifo vs { r with cursor := Radio.nextCursor r.cursor }
    else none

/-- The radio after one transaction of the block, or nothing when an answer contradicts the premises. No rule says what
a transaction of another shape does: nothing is known after it. -/
def Radio.serve (t : Transaction) (r : Radio) : Option Radio :=
  match t.sent, t.got with
  | h :: outs, _ :: ins =>
    let a : Addr := h.setWidth 7
    if a = RadioReg.fifo.addr then
      if h.getLsbD 7 then some (outs.foldl Radio.writeFifo r) else Radio.readFifo ins r
    else
      match outs, ins with
      | [v], [w] => if h.getLsbD 7 then some (r.writeReg a v) else r.readReg a w
      | _, _ => some r.forget
  | _, _ => some r.forget

/-- The payload of a packet stored from FIFO address `start` (20_memory R88). When it runs past the last location, where
its bytes go is open (93_implementation_defined U9), and no FIFO byte is known after it. Whether a reception moves
FifoAddrPtr is not said: the cursor is not known after it. -/
def Radio.store (start : Byte) (data : List Byte) (r : Radio) : Radio :=
  { r.forgetFifo with
    fifo := if start.toNat + data.length ≤ Config.fifoSize.val then Memory.writeRun r.fifo start.toNat data else [] }

/-- A packet has come in (20_memory R88); the mode stays (R87). -/
def Radio.receive (start : Byte) (data : List Byte) (crcBad : Bool) (also : Byte) (r : Radio) : Radio :=
  let regs := Memory.write r.regs RadioReg.rxNbBytes.addr.toNat (BitVec.ofNat 8 data.length)
  { (r.store start data).raiseFlags ((if crcBad then Config.irqCrcErr else Config.irqRxDone) ||| also) with
    regs := Memory.write regs RadioReg.fifoRxCurrentAddr.addr.toNat start }

/-- A transmission ends: from Transmit the radio goes to Standby, a mode written meanwhile stays (20_memory R86,
93_implementation_defined U8). What it did with the FIFO and its cursor is not said. -/
def Radio.endTransmission (also : Byte) (r : Radio) : Radio :=
  { r.forgetFifo.raiseFlags (Config.irqTxDone ||| also) with
    mode := if r.mode = some .transmit then some .standby else r.mode }

/-- The radio after one act (20_memory R86, R88, R90, R92); nothing when a transaction's answer contradicts the premises,
or a packet is longer than RxNbBytes can say (20_memory R72). -/
def Radio.act (x : RadioAct) (r : Radio) : Option Radio :=
  match x with
  | .transaction t => r.serve t
  | .pulse => some r.forget
  | .transmitEnds also => some (r.endTransmission also)
  | .packet start data crcBad also =>
    if data.length ≤ Config.maxPayload then some (r.receive start data crcBad also) else none
  | .otherFlags bits => some (r.setFlags (bits &&& ~~~Radio.named))
  | .byteArrives => some r.forgetFifo

/-- The radio after a run of acts, or nothing when one of them contradicts the premises. -/
def Radio.follow : List RadioAct → Radio → Option Radio
  | [], r => some r
  | x :: xs, r => (r.act x).bind (Radio.follow xs)

/-- The block's acts in a trace: its complete transactions and its reset pulses, in order. `sent` and `got` hold the
bytes of the bracket that is open. -/
def traceActs : List Event → List Byte → List Byte → List RadioAct
  | [], _, _ => []
  | .sel :: es, _, _ => traceActs es [] []
  | .xfer o i :: es, sent, got => traceActs es (sent ++ [o]) (got ++ [i])
  | .desel :: es, sent, got => .transaction ⟨sent, got⟩ :: traceActs es [] []
  | .rst true :: es, sent, got => .pulse :: traceActs es sent got
  | .rst false :: es, sent, got => traceActs es sent got
  | .delay _ :: es, sent, got => traceActs es sent got
  | .diag _ :: es, sent, got => traceActs es sent got

/-- Whether an act is the block's own. -/
def RadioAct.isBlocks : RadioAct → Bool
  | .transaction _ => true
  | .pulse => true
  | .transmitEnds _ => false
  | .packet _ _ _ _ => false
  | .otherFlags _ => false
  | .byteArrives => false

/-- The premises R83 to R92 hold of a trace: the acts are the block's in the trace, with acts of the radio between
them, and no answer contradicts them. A claim that needs the radio to behave takes this as a named premise. -/
def RadioObeys (acts : List RadioAct) (trace : List Event) : Prop :=
  acts.filter RadioAct.isBlocks = traceActs trace [] [] ∧ (Radio.follow acts Radio.unknown).isSome = true

end Sys2Proof.Machine
end

