-- ==== Sys2Proof/Safety.lean ====
section
/-! DEFINITION. What a good state and a good bus trace are, in the terms the statements use. -/

namespace Sys2Proof.Machine

/-! ### The chip-select discipline, read off the trace (40_register_interface R140, 70_reset_and_hazards R301) -/

/-- Where the bus stands: no bracket open, chip-select just asserted, bytes moving. -/
inductive BusPhase where
  | idle
  | selected
  | moving
deriving DecidableEq, Repr

/-- The phase after one more event; `none` when the event breaks the discipline: a bracket opens only on an idle bus,
bytes move only inside one, it closes only after at least one byte, nothing else stands inside it. -/
def phaseAfter : Option BusPhase → Event → Option BusPhase
  | some .idle, .sel => some .selected
  | some .selected, .xfer _ _ => some .moving
  | some .moving, .xfer _ _ => some .moving
  | some .moving, .desel => some .idle
  | some .idle, .rst _ => some .idle
  | some .idle, .delay _ => some .idle
  | some .idle, .diag _ => some .idle
  | _, _ => none

/-- The phase a trace ends in, `none` when it breaks the discipline. -/
def busPhase (trace : List Event) : Option BusPhase := trace.foldl phaseAfter (some .idle)

/-- Whether an event belongs to a transaction. -/
def Event.onBus : Event → Bool
  | .sel | .xfer _ _ | .desel => true
  | .rst _ | .delay _ | .diag _ => false

/-! ### Legal sequencer positions (10_state R31) -/

/-- A position the sequencer can hold between two steps. A command whose first step is its last holds a position only
while a transfer of it never completes (`held`), and so does the first step of SEND and RECV. -/
def SeqPos.legal (held : Bool) (p : SeqPos) : Bool :=
  match p.cmd with
  | .init => 1 ≤ p.step && p.step ≤ 13
  | .send len => len.toNat ≤ Config.maxPayload && (if held then 1 else 2) ≤ p.step && p.step ≤ 5
  | .recv cap => cap != 0 && (if held then 1 else 2) ≤ p.step && p.step ≤ 4
  | .wrreg addr _ =>
    held && p.step == 1 && addr != RadioReg.mode.addr && addr != RadioReg.irqFlags.addr
  | .rdreg addr => held && p.step == 1 && addr != RadioReg.irqFlags.addr
  | .wrfifo _ | .rdfifo _ | .setmode _ => held && p.step == 1
  | .reset | .sleep | .standby | .listen | .evtake _ | .evclear _ | .evpeek _ | .irqmask _ | .w1 _ _ | .r1 _ _
  | .wb _ | .rb _ | .irqsvc => false

/-- Whether a position is inside RECV. -/
def SeqPos.inRecv (p : SeqPos) : Bool :=
  match p.cmd with
  | .recv _ => true
  | _ => false

/-! ### The invariant of the block -/

/-- What holds of the block at power-on and after every step, whatever the host, the radio and the line do. -/
structure State.Inv (s : State) : Prop where
  /-- the receive buffer is in canonical form -/
  buffer : Memory.wf s.rxBuf = true
  /-- the trace keeps the chip-select discipline, and `cs` is 1 exactly inside a bracket (10_state R32) -/
  bracket : (busPhase s.trace).map (· != .idle) = some s.cs
  /-- chip-select is asserted only while the block is busy -/
  held : s.cs = true → s.busyO = true
  /-- the sequencer holds a legal position (10_state R31) -/
  position : ∀ p, s.seq = some p → p.legal s.cs = true
  /-- the reset line is low only inside RESET (10_state R33) -/
  resetLine : s.nreset = true
  /-- no frame is placed from outside (log entry 9) -/
  noFrame : s.busReq = none
  /-- before the first reset: PreSleep, no event, no running command or service, nothing was on the bus
  (41_mode_fsm R171, 43_event_decoder R201) -/
  beforeReset : s.resetDone = false →
    s.mode = .preSleep ∧ s.initOk = false ∧ s.cfg = none ∧ s.evTx = false ∧ s.evRx = false ∧ s.evCrc = false ∧
      s.seq = none ∧ s.inService = false ∧ s.trace.all (fun e => !e.onBus) = true
  /-- a passed identity check means that a configuration was applied (10_state R22, R23) -/
  identified : s.initOk = true → s.cfg.isSome = true
  /-- a running INIT has its configuration -/
  configured : ∀ k, s.seq = some ⟨.init, k⟩ → s.cfg.isSome = true
  /-- between the two transactions of a service its flags byte is held (43_event_decoder R202) -/
  service : s.inService = true → s.svcFlags.isSome = true ∨ s.cs = true
  /-- no flags byte outside a service -/
  noService : s.inService = false → s.svcFlags = none
  /-- RECV runs with the service held off (42_radio_driver R187) -/
  masked : ∀ p, s.seq = some p → p.inRecv = true → s.irqMask = true
  /-- no service runs inside RECV (43_event_decoder R201) -/
  alone : ∀ p, s.seq = some p → p.inRecv = true → s.inService = false

/-! ### Words the statements use -/

/-- The line gives no level before any of the next `n` steps. -/
abbrev quietFor (n : Nat) (s : State) : Prop := s.irqIn.take n = List.replicate n []

/-- The radio's coming answers begin with these bytes (20_memory R82), each transfer completing. -/
abbrev State.answers (s : State) (bytes : List Byte) : Prop := bytes.map some <+: s.replies

/-- The events of one complete transaction: the bytes sent, the header first, with the bytes returned. -/
def bracketEvents (sent got : List Byte) : List Event := .sel :: (List.zipWith Event.xfer sent got ++ [.desel])

/-- The state after one complete transaction: the events on the trace, the answers used up, `cs` = 0
(40_register_interface R140). -/
def State.afterTransaction (sent got : List Byte) (s : State) : State :=
  { s with cs := false, trace := s.trace ++ bracketEvents sent got, replies := s.replies.drop sent.length }

/-- The radio answers these bytes and then a transfer never completes (40_register_interface R145). -/
abbrev State.dies (s : State) (bytes : List Byte) : Prop := bytes.map some ++ [none] <+: s.replies

/-- The state inside a transaction whose transfer after the answers `got` never completes: `cs` = 1, no `Desel` on the
trace (40_register_interface R145). -/
def State.stuckIn (sent got : List Byte) (s : State) : State :=
  { s with
    cs := true
    trace := s.trace ++ .sel :: List.zipWith Event.xfer sent got
    replies := s.replies.drop (got.length + 1) }

/-- The bytes sent in each complete bracket of a run of events, in order; `sent` holds those of the open one. -/
def wireGroups : List Event → List Byte → List (List Byte)
  | [], _ => []
  | .sel :: es, _ => wireGroups es []
  | .xfer o _ :: es, sent => wireGroups es (sent ++ [o])
  | .desel :: es, sent => sent :: wireGroups es []
  | .rst _ :: es, sent => wireGroups es sent
  | .delay _ :: es, sent => wireGroups es sent
  | .diag _ :: es, sent => wireGroups es sent

/-- The events that are not part of a transaction, in order. -/
def offBus (es : List Event) : List Event := es.filter fun e => !e.onBus

/-- The main context may take an offer: the bus free, no service, no command running (70_reset_and_hazards R300). -/
abbrev State.ready (s : State) : Prop := s.cs = false ∧ s.inService = false ∧ s.seq = none

/-- No reset has completed, nothing runs, and no command comes from the host: every coming offer is an idle step
(70_reset_and_hazards R290). -/
abbrev State.awaitsFirstCommand (s : State) : Prop :=
  s.resetDone = false ∧ s.ready ∧ s.busReq = none ∧ ∀ o ∈ s.hostIn, o = none

/-- The running command is `i`, its next step `k`, and it may go on. -/
abbrev State.atStep (i : Instr) (k : Nat) (s : State) : Prop :=
  s.cs = false ∧ s.inService = false ∧ s.seq = some ⟨i, k⟩

/-- The next step is the main context's: the bus free, no service running or startable once `irq` is sampled, no frame
placed (43_event_decoder R201). -/
abbrev State.mainsTurn (s : State) : Prop :=
  s.cs = false ∧ s.inService = false ∧ (sampleIrq s).serviceMayStart = false ∧ s.busReq = none

/-- The block's own registers of 10_state R20 to R33 are the same. -/
abbrev sameRegisters (s t : State) : Prop :=
  t.mode = s.mode ∧ t.resetDone = s.resetDone ∧ t.initOk = s.initOk ∧ t.cfg = s.cfg ∧ t.evTx = s.evTx ∧
    t.evRx = s.evRx ∧ t.evCrc = s.evCrc ∧ t.irqPrev = s.irqPrev ∧ t.irqPend = s.irqPend ∧ t.irqMask = s.irqMask ∧
    t.inService = s.inService ∧ t.seq = s.seq ∧ t.cs = s.cs ∧ t.nreset = s.nreset

end Sys2Proof.Machine
end

