-- ==== Sys2Proof/Certificates/Slice0/Obligations.lean ====
section
/-! DEFINITION. The statements for the provers. Where a statement gives a whole next state, the clauses on the model's own
fields are the model's bookkeeping, not a rule's: the answers used up (log entry 2), `declined` (log entry 4), `result`
empty from a command's acceptance to its end (log entry 8), `kept` and `busReq` (log entry 9), `recvLen`, `recvPtr`,
`maskOld`, `svcFlags` (log entry 12). The bytes the radio answers are hypotheses, never values the model chose. -/

open Sys2Proof Sys2Proof.Machine

/-! ### Power-on -/

/-- 70_reset_and_hazards R290: the power-on value of every register of the block, and: "The block performs no transaction
and drives no pulse by itself at power-on: it waits for the first command". Waiting is a premise that power-on meets and
that every step keeps, for every list of idle entries at the command port and whatever levels the line `irq` takes; such a
step leaves the trace and every register but the edge latch as they were. -/
def Obligations.PowerOnStateAndSilence : Prop :=
  (State.reset.mode = .preSleep ∧ State.reset.resetDone = false ∧ State.reset.initOk = false ∧
    State.reset.cfg = none ∧ State.reset.evTx = false ∧ State.reset.evRx = false ∧ State.reset.evCrc = false ∧
    State.reset.irqPrev = false ∧ State.reset.irqPend = false ∧ State.reset.irqMask = false ∧
    State.reset.inService = false ∧ State.reset.seq = none ∧ State.reset.cs = false ∧ State.reset.nreset = true) ∧
  State.reset.awaitsFirstCommand ∧
  ∀ s t : State, s.awaitsFirstCommand → step s = .next t →
    t.trace = s.trace ∧ sameRegisters (sampleIrq s) t ∧ t.mode = s.mode ∧ t.nreset = s.nreset ∧ t.result = s.result ∧
      t.awaitsFirstCommand

/-! ### Decoding -/

/-- Words written out from 30_encoding R121, R101 to R104 decode to the instruction they stand for. -/
def Obligations.SampleWordsDecode : Prop :=
  decodeCommand 0x010D0000 = .ok (.wrreg 0x0D 0x00) ∧ decodeCommand 0x02420000 = .ok (.rdreg 0x42) ∧
    decodeCommand 0x12050000 = .ok (.setmode .receiveContinuous) ∧ decodeCommand 0x13000006 = .ok (.send 6) ∧
    decodeCommand 0x14000040 = .ok (.recv 64) ∧ decodeCommand 0x20020000 = .ok (.evtake .rxDone) ∧
    decodeFrame [0x92, 0xFF] = .ok (.w1 0x12 0xFF) ∧ decodeFrame [0x80, 0x50, 0x69] = .ok (.wb [0x50, 0x69]) ∧
    decodeTableWord 16 0x4200 = some (.r1 0x42 0x00)

/-- 30_encoding R121 to R123, R101 to R104, R127: every well-formed instruction but IRQSVC has a code, and the decoder
reads it back from that code, with every operand, in its canonical spelling. Which spelling is canonical is the model's
reading, not a rule's: two bytes are W1 or R1 and never a burst of one byte, and R1 takes any second byte
(log entry 15); the words of SLEEP, STANDBY, LISTEN are SETMODE's (log entry 14). -/
def Obligations.DecodeAfterEncode : Prop :=
  ∀ i : Instr, i.wf = true → i ≠ .irqsvc → decode (encode i) = .ok i.canonical

/-- No bit of a code is dropped: an instruction decoded from a code is well-formed and encodes to that very code; and
IRQSVC is decoded from none (30_encoding R129). -/
def Obligations.EncodeAfterDecode : Prop :=
  ∀ (c : Code) (i : Instr), decode c = .ok i → encode i = c ∧ i.wf = true ∧ i ≠ .irqsvc

/-- 30_encoding R122: a word is the command of a row exactly when `c & mask == match` and the row's side condition
holds. -/
def Obligations.WordIsRowsCommandByMatchAndMask : Prop :=
  ∀ r ∈ matchTable, ∀ c : CmdWord,
    (r.hits c = true ↔ ∃ i, decodeCommand c = .ok i ∧ i.commandName = some r.name)

/-! ### The step -/

/-- A step runs the decoded instruction: on the main context's turn, with nothing running, the host's next offer is
taken off the port with its side inputs and the step is exec of the decoded instruction (10_state R34). -/
def Obligations.StepRunsTheOfferedCommand : Prop :=
  ∀ (s : State) (o : Offer) (rest : List (Option Offer)) (i : Instr),
    s.mainsTurn → s.seq = none → s.hostIn = some o :: rest → decodeCommand o.word = .ok i →
      step s = exec i ((sampleIrq s).takeOffer o rest) ∧ i.wf = true

/-- A running command keeps the sequencer: on the main context's turn the step is exec of the command at whose
position `seq` stands (10_state R31). -/
def Obligations.StepResumesTheRunningCommand : Prop :=
  ∀ (s : State) (p : SeqPos), s.mainsTurn → s.seq = some p → step s = exec p.cmd (sampleIrq s)

/-- withFetchWord places an instruction so that the very next step runs exactly it, from any state, and changes nothing
the fetch does not need. -/
def Obligations.NextStepRunsThePlacedWord : Prop :=
  ∀ (s : State) (nbits w : Nat) (i : Instr), decodeTableWord nbits w = some i →
    step (s.withFetchWord nbits w) =
      exec i { s with cs := false, inService := false, irqPend := false, seq := none, busReq := none }

/-- 43_event_decoder R201: when all the conditions hold at a step boundary (the edge being sampled) the service goes
before the main context's next step: it starts, `irq_pend` = 0, `seq` held, the host's offer not taken. While one of
them fails no service starts and a latched edge waits in `irq_pend`. That the boundary between steps 0 and 1 of INIT is one
where the service may start is the model's reading (log entry 11). -/
def Obligations.ServiceStartsExactlyWhenAllowed : Prop :=
  (∀ s : State, (sampleIrq s).irqPend = true → s.irqMask = false → s.inService = false → s.resetDone = true →
    s.cs = false →
    (s.seq = none ∨ ∃ p, s.seq = some p ∧ p.cmd ≠ .reset ∧ p.inRecv = false ∧ (p.cmd = .init → p.step ≠ 0)) →
      ∃ t, step s = .next t ∧ t.inService = true ∧ t.irqPend = false ∧ t.seq = s.seq ∧ t.hostIn = s.hostIn) ∧
  (∀ s t : State, step s = .next t → s.inService = false →
    ((sampleIrq s).irqPend = false ∨ s.irqMask = true ∨ s.resetDone = false ∨ s.cs = true ∨
      ∃ p, s.seq = some p ∧ (p.cmd = .reset ∨ p.inRecv = true ∨ (p.cmd = .init ∧ p.step = 0))) →
      t.inService = false ∧ t.irqPend = (sampleIrq s).irqPend)

/-- The model's choice (log entries 4, 16 and 20), after "the block has no halt state of its own" in 60_exceptions R257:
every step answers a next state, an offer turned away and a stuck transfer included. -/
def Obligations.EveryStepAnswers : Prop := ∀ s, ∃ t, step s = .next t

/-- 43_event_decoder R200: the levels are sampled one by one: a rising edge sets `irq_pend`, whatever the mask, the
service, `seq` and `reset_done` are; an edge on top of a pending one changes nothing; `irq_prev` takes the level. -/
def Obligations.EdgesAreLatchedLevelByLevel : Prop :=
  (∀ (s : State) (l : Bool) (rest : List (List Bool)), s.irqIn = [l] :: rest →
    sampleIrq s = { s with irqPend := s.irqPend || (l && !s.irqPrev), irqPrev := l, irqIn := rest }) ∧
  (∀ (s : State) (l : Bool) (ls : List Bool) (rest : List (List Bool)), s.irqIn = (l :: ls) :: rest →
    sampleIrq s = sampleIrq (sampleIrq { s with irqIn := [l] :: ls :: rest }))

/-! ### Invariants -/

/-- The invariant of the block holds at power-on. -/
def Obligations.InvariantAtPowerOn : Prop := State.reset.Inv

/-- Every step keeps the invariant of the block, from every state that has it: chip-select brackets the transactions
and never interleaves them, the sequencer stands at a legal position, nothing is on the bus before the first reset,
RECV runs masked and alone, the receive buffer stays canonical. -/
def Obligations.EveryStepKeepsTheInvariant : Prop :=
  ∀ s t : State, s.Inv → step s = .next t → t.Inv

/-- 41_mode_fsm R169: `mode` changes only by a mode write of the running or offered command, by RESET or INIT's reset,
or by the automatic edge from Transmit to Standby in a service; never by a read of the radio. The instruction named is the
one the arbiter gives the step to: the running command, the offered word's, or the running service. -/
def Obligations.ModeHasOnlyItsWriters : Prop :=
  ∀ s t : State, step s = .next t → t.mode ≠ s.mode →
    (∃ i u, arbitrate (sampleIrq s) = (some i, u) ∧ exec i u = .next t ∧ u.mode = s.mode ∧
      ((i = .irqsvc ∧ s.inService = true) ∨ (∃ p, s.seq = some p ∧ p.cmd = i) ∨
        (s.seq = none ∧ ∃ o rest, s.hostIn = some o :: rest ∧ decodeCommand o.word = .ok i)) ∧
      ((∃ m, i = .setmode m ∧ t.mode = modeOf m) ∨ (i = .sleep ∧ t.mode = .sleep) ∨
        (i = .standby ∧ t.mode = .standby) ∨ (i = .listen ∧ t.mode = .receiveContinuous) ∨
        (i = .reset ∧ t.mode = .preSleep) ∨
        (i = .init ∧ (t.mode = .preSleep ∨ t.mode = .sleep ∨ t.mode = .standby)) ∨
        (∃ len, i = .send len ∧ (t.mode = .standby ∨ t.mode = .transmit)) ∨
        (i = .irqsvc ∧ s.inService = true ∧ s.mode = .transmit ∧ t.mode = .standby ∧ t.evTx = true)))

/-- 10_state R24 to R26, 43_event_decoder R206: an event flag is set by no step but the end of a service whose flags
byte decodes to that event; so a byte with the CRC bit set never sets `ev_rx`, and a byte with exactly one of the CRC and
receive bits set never sets `ev_tx`. The positions of the bits are log entry 13's. -/
def Obligations.EventFlagsAreSetOnlyByTheService : Prop :=
  ∀ s t : State, step s = .next t →
    (s.evTx = false → t.evTx = true →
      ∃ f, s.inService = true ∧ s.svcFlags = some f ∧ decodeEvent f = .transmitDone ∧ f &&& Config.irqTxDone ≠ 0 ∧
        (f &&& Config.irqCrcErr = 0 ↔ f &&& Config.irqRxDone = 0)) ∧
    (s.evRx = false → t.evRx = true →
      ∃ f, s.inService = true ∧ s.svcFlags = some f ∧ decodeEvent f = .receiveDone ∧ f &&& Config.irqRxDone ≠ 0 ∧
        f &&& Config.irqCrcErr = 0) ∧
    (s.evCrc = false → t.evCrc = true →
      ∃ f, s.inService = true ∧ s.svcFlags = some f ∧ decodeEvent f = .crcError ∧ f &&& Config.irqCrcErr ≠ 0 ∧
        f &&& Config.irqRxDone = 0)

/-- 40_register_interface R145, 70_reset_and_hazards R315: once a transfer never completes both contexts are stuck for
ever: `cs` stays 1, `seq` keeps its value, no result comes, nothing more happens on the bus. -/
def Obligations.StuckBusStopsEverything : Prop :=
  ∀ (n : Nat) (s : State), s.cs = true →
    ∃ t, Sys2Proof.core.run n s = .next t ∧ t.cs = true ∧ t.seq = s.seq ∧ t.inService = s.inService ∧
      t.mode = s.mode ∧ t.result = s.result ∧ t.trace = s.trace ∧ t.rxBuf = s.rxBuf ∧ t.busyO = s.busyO ∧
      t.hostIn = s.hostIn

/-- 40_register_interface R145, 41_mode_fsm R161: a command of one transaction, any of whose transfers (the header's, a
data byte's) never completes, stays at its step with `cs` = 1 and `busy_o` = 1, without a result; SETMODE and its
spellings keep the old mode. The bytes sent and answered before stand on the trace; that those of RDFIFO are in the host's
buffer already is the model's reading (log entry 7). -/
def Obligations.CommandWithADeadTransferStaysAtItsStep : Prop :=
  ∀ (s : State) (i : Instr) (sent got : List Byte), s.ready → s.resetDone = true → s.dies got →
    got.length < sent.length →
    ((∃ a v, i = .wrreg a v ∧ a ≠ 0x01 ∧ a ≠ 0x12 ∧ sent = [a.setWidth 8 ||| 0x80, v]) ∨
        (∃ a, i = .rdreg a ∧ a ≠ 0x12 ∧ sent = [a.setWidth 8 &&& 0x7F, 0x00]) ∨
        (∃ n, i = .wrfifo n ∧ sent = 0x80 :: payloadBytes n.toNat s) ∨
        (∃ m, i = .setmode m ∧ sent = [0x81, modeByte m]) ∨ (i = .sleep ∧ sent = [0x81, 0x80]) ∨
        (i = .standby ∧ sent = [0x81, 0x81]) ∨ (i = .listen ∧ sent = [0x81, 0x85]) →
      exec i s = .next { s.stuckIn sent got with seq := some ⟨i, 1⟩, result := none, declined := none }) ∧
    (∀ n, i = .rdfifo n → sent = 0x00 :: List.replicate n.toNat 0x00 →
      exec i s = .next
        { s.stuckIn sent got with
          rxBuf := Memory.writeRun s.rxBuf 0 (got.drop 1), seq := some ⟨i, 1⟩, result := none, declined := none })

/-- 40_register_interface R146: the bytes the radio returns while the block writes are discarded: whatever they are,
a write command leaves the same state but for the trace of what was returned. -/
def Obligations.BytesReturnedWhileWritingAreDiscarded : Prop :=
  ∀ (s : State) (i : Instr) (tail : List (Option Byte)) (p q : List Byte), s.ready → s.resetDone = true →
    ((∃ a v, i = .wrreg a v ∧ p.length = 2 ∧ q.length = 2) ∨ (∃ m, i = .setmode m ∧ p.length = 2 ∧ q.length = 2) ∨
      (∃ n, i = .wrfifo n ∧ p.length = n.toNat + 1 ∧ q.length = n.toNat + 1)) →
    ∃ t u, exec i { s with replies := p.map some ++ tail } = .next t ∧
      exec i { s with replies := q.map some ++ tail } = .next u ∧
      ({ t with trace := [], replies := [] } : State) = { u with trace := [], replies := [] } ∧
      wireGroups t.trace [] = wireGroups u.trace []

/-! ### Offers turned away -/

/-- The model's choice (log entry 4) for 41_mode_fsm R171, R296: before the first reset a command that uses the bus is
turned away and nothing of the block changes. -/
def Obligations.BusCommandsBeforeResetAreTurnedAway : Prop :=
  ∀ (s : State) (i : Instr), s.ready → s.resetDone = false →
    ((∃ a v, i = .wrreg a v) ∨ (∃ a, i = .rdreg a) ∨ (∃ n, i = .wrfifo n) ∨ (∃ n, i = .rdfifo n) ∨
      (∃ m, i = .setmode m) ∨ i = .sleep ∨ i = .standby ∨ i = .listen ∨ (∃ l, i = .send l) ∨
      (∃ c, i = .recv c ∧ c ≠ 0)) →
    exec i s = .next { s with result := none, declined := some .beforeReset }

/-- The model's choice (log entry 4) for 40_register_interface R147, 70_reset_and_hazards R316: the host's access to
Mode (write) and IrqFlags is turned away and nothing of the block changes. -/
def Obligations.GuardedAddressesAreTurnedAway : Prop :=
  ∀ (s : State) (v : Byte), s.ready → s.resetDone = true →
    exec (.wrreg 0x01 v) s = .next { s with result := none, declined := some .guardedAddress } ∧
    exec (.wrreg 0x12 v) s = .next { s with result := none, declined := some .guardedAddress } ∧
    exec (.rdreg 0x12) s = .next { s with result := none, declined := some .guardedAddress }

/-- The model's choice (log entry 4) for 30_encoding R125: a word that spells no command is turned away: no
transaction, no register of the block but the sampled line changes, and the offer is off the port. -/
def Obligations.WordsThatSpellNoCommandAreTurnedAway : Prop :=
  ∀ (s : State) (o : Offer) (rest : List (Option Offer)), s.mainsTurn → s.seq = none → s.hostIn = some o :: rest →
    (∀ r ∈ matchTable, r.hits o.word = false) →
      ∃ t, step s = .next t ∧ sameRegisters (sampleIrq s) t ∧ t.trace = s.trace ∧ t.result = none ∧
        t.declined = some .noCommand ∧ t.hostIn = rest

/-- 70_reset_and_hazards R300: a command offered while `busy_o` = 1 is not accepted: a step of a busy block, or of one
whose bus is stuck, leaves the host's offers where they are; and no other command than the running one moves. -/
def Obligations.BusyBlockAcceptsNoCommand : Prop :=
  (∀ s t : State, step s = .next t → s.busyO = true ∨ s.cs = true → t.hostIn = s.hostIn) ∧
  (∀ (s : State) (i : Instr), i.commandName.isSome = true →
    (s.cs = true ∨ s.inService = true ∨ ∃ p, s.seq = some p ∧ p.cmd ≠ i) → exec i s = .next s)

/-! ### Register Interface -/

/-- 40_register_interface R141: WRREG is one write transaction, header `addr | 0x80` then the value, result Ok;
nothing else changes. -/
def Obligations.WrregIsOneWriteTransaction : Prop :=
  ∀ (s : State) (addr : Addr) (value r₀ r₁ : Byte), s.ready → s.resetDone = true → addr ≠ 0x01 → addr ≠ 0x12 →
    s.answers [r₀, r₁] →
    exec (.wrreg addr value) s = .next
      { s.afterTransaction [addr.setWidth 8 ||| 0x80, value] [r₀, r₁] with
        seq := none, result := some ⟨0, .ok⟩, declined := none }

/-- 40_register_interface R142: RDREG is one read transaction, header `addr & 0x7F` then a dummy, and hands back the
byte the radio returned last; nothing else changes. -/
def Obligations.RdregHandsBackTheRadiosByte : Prop :=
  ∀ (s : State) (addr : Addr) (r₀ v : Byte), s.ready → s.resetDone = true → addr ≠ 0x12 → s.answers [r₀, v] →
    exec (.rdreg addr) s = .next
      { s.afterTransaction [addr.setWidth 8 &&& 0x7F, 0x00] [r₀, v] with
        seq := none, result := some ⟨v, .ok⟩, declined := none }

/-- 40_register_interface R143: WRFIFO is one transaction, 0x80 then the first `n` bytes of the host's buffer in index
order; nothing else changes. -/
def Obligations.WrfifoIsOneBurst : Prop :=
  ∀ (s : State) (n r₀ : Byte) (ins : List Byte), s.ready → s.resetDone = true → n.toNat ≤ s.txBuf.length →
    ins.length = n.toNat → s.answers (r₀ :: ins) →
    exec (.wrfifo n) s = .next
      { s.afterTransaction (0x80 :: s.txBuf.take n.toNat) (r₀ :: ins) with
        seq := none, result := some ⟨0, .ok⟩, declined := none }

/-- 40_register_interface R144: RDFIFO is one transaction, 0x00 then `n` dummies; the `n` bytes the radio returned go to
the host's buffer from index 0, every other index reads as before, `data` = `n`; nothing else changes. -/
def Obligations.RdfifoFillsTheHostBuffer : Prop :=
  ∀ (s : State) (n r₀ : Byte) (ins : List Byte), s.ready → s.resetDone = true → ins.length = n.toNat →
    s.answers (r₀ :: ins) →
    ∃ buf, exec (.rdfifo n) s = .next
        { s.afterTransaction (0x00 :: List.replicate n.toNat 0x00) (r₀ :: ins) with
          rxBuf := buf, seq := none, result := some ⟨n, .ok⟩, declined := none } ∧
      (∀ x, Memory.read buf x = if x < n.toNat then ins[x]? else Memory.read s.rxBuf x) ∧
      (Memory.wf s.rxBuf = true → Memory.wf buf = true)

/-! ### Modes and reset -/

/-- 41_mode_fsm R161: SETMODE writes `0x80 | code` to Mode and then takes the mode, from every mode; nothing else
changes. If a transfer never completes `mode` keeps its old value and the command does not end. -/
def Obligations.SetmodeWritesTheByteThenTakesTheMode : Prop :=
  (∀ (s : State) (m : RadioMode) (r₀ r₁ : Byte), s.ready → s.resetDone = true → s.answers [r₀, r₁] →
    exec (.setmode m) s = .next
      { s.afterTransaction [0x81,
          match m with
          | .sleep => 0x80
          | .standby => 0x81
          | .transmit => 0x83
          | .receiveContinuous => 0x85] [r₀, r₁] with
        mode := match m with
          | .sleep => .sleep
          | .standby => .standby
          | .transmit => .transmit
          | .receiveContinuous => .receiveContinuous
        seq := none, result := some ⟨0, .ok⟩, declined := none }) ∧
  (∀ (s : State) (m : RadioMode) (r₀ : Byte) (rest : List (Option Byte)), s.ready → s.resetDone = true →
    (s.replies = none :: rest ∨ s.replies = some r₀ :: none :: rest) →
    ∃ t, exec (.setmode m) s = .next t ∧ t.mode = s.mode ∧ t.cs = true ∧ t.seq = some ⟨.setmode m, 1⟩ ∧
      t.result = none)

/-- 41_mode_fsm R167: SLEEP, STANDBY, LISTEN do what SETMODE Sleep, Standby, ReceiveContinuous do, with their wire
bytes. -/
def Obligations.PseudoCommandsAreSetmode : Prop :=
  ∀ (s : State) (r₀ r₁ : Byte), s.ready → s.resetDone = true → s.answers [r₀, r₁] →
    (exec .sleep s = .next
        { s.afterTransaction [0x81, 0x80] [r₀, r₁] with
          mode := .sleep, seq := none, result := some ⟨0, .ok⟩, declined := none } ∧
      exec .sleep s = exec (.setmode .sleep) s) ∧
    (exec .standby s = .next
        { s.afterTransaction [0x81, 0x81] [r₀, r₁] with
          mode := .standby, seq := none, result := some ⟨0, .ok⟩, declined := none } ∧
      exec .standby s = exec (.setmode .standby) s) ∧
    (exec .listen s = .next
        { s.afterTransaction [0x81, 0x85] [r₀, r₁] with
          mode := .receiveContinuous, seq := none, result := some ⟨0, .ok⟩, declined := none } ∧
      exec .listen s = exec (.setmode .receiveContinuous) s)

/-- 41_mode_fsm R166: RESET pulses the reset line and sets `mode` = PreSleep, `reset_done` = 1, `init_ok` = 0; the event
flags, `irq_pend`, `irq_mask`, `cfg` and everything else are left as they were. The delay of 10 on the trace stands for at least
10, as the model writes it (log entry 10). -/
def Obligations.ResetPulsesAndForgetsTheMode : Prop :=
  ∀ s : State, s.ready →
    exec .reset s = .next
      { s with
        trace := s.trace ++ [.rst false, .delay 10, .rst true, .delay Config.tSettle]
        nreset := true, mode := .preSleep, resetDone := true, initOk := false
        seq := none, result := some ⟨0, .ok⟩, declined := none }

/-! ### INIT -/

/-- 42_radio_driver R180: the frequency word is floor(F * 2^19 / 32000000) mod 2^24, which is the equivalent form
F * 256 / 15625; its three bytes, high first, are the word again; the worked values. -/
def Obligations.FrequencyWordLaw : Prop :=
  (∀ f : BitVec 32, (frfWord f).toNat = f.toNat * 2 ^ 19 / 32000000 % 2 ^ 24 ∧
    (frfWord f).toNat = f.toNat * 256 / 15625 % 2 ^ 24) ∧
  (∀ c : RadioConfig, frfMsb c ++ frfMid c ++ frfLsb c = frfWord c.frequency) ∧
  frfWord 915000000 = 0xE4C000 ∧ frfWord 868000000 = 0xD90000 ∧ frfWord 433000000 = 0x6C4000 ∧
  frfWord 915000100 = 0xE4C001 ∧ frfWord 0 = 0 ∧ frfWord 1024000000 = 0

/-- 42_radio_driver R181 step 0: INIT keeps the RadioConfig of the side input and performs the whole reset sequence;
it goes on at step 1. It is admitted before any reset. The delay of 10 on the trace stands for at least 10, as the model
writes it (log entry 10). -/
def Obligations.InitBeginsWithTheReset : Prop :=
  ∀ s : State, s.ready →
    exec .init s = .next
      { s with
        cfg := some s.cfgIn
        trace := s.trace ++ [.rst false, .delay 10, .rst true, .delay Config.tSettle]
        nreset := true, mode := .preSleep, resetDone := true, initOk := false
        seq := some ⟨.init, 1⟩, result := none, declined := none }

/-- 42_radio_driver R181 steps 1 and 2: INIT takes the radio through Sleep to Standby. -/
def Obligations.InitSleepsThenStandsBy : Prop :=
  ∀ (s : State) (r₀ r₁ : Byte), s.answers [r₀, r₁] →
    (s.atStep .init 1 → exec .init s = .next
      { s.afterTransaction [0x81, 0x80] [r₀, r₁] with mode := .sleep, seq := some ⟨.init, 2⟩ }) ∧
    (s.atStep .init 2 → exec .init s = .next
      { s.afterTransaction [0x81, 0x81] [r₀, r₁] with mode := .standby, seq := some ⟨.init, 3⟩ })

/-- 42_radio_driver R181 steps 3 to 12: each step is one write, in this order, of the bytes of the applied
RadioConfig. -/
def Obligations.InitWritesTheConfiguration : Prop :=
  ∀ (s : State) (c : RadioConfig) (r₀ r₁ : Byte) (k : Nat) (sent : List Byte), s.cfg = some c → s.answers [r₀, r₁] →
    s.atStep .init k →
    (k, sent) ∈
      [(3, [0x86, (frfWord c.frequency).extractLsb' 16 8]), (4, [0x87, (frfWord c.frequency).extractLsb' 8 8]),
        (5, [0x88, (frfWord c.frequency).extractLsb' 0 8]), (6, [0x9D, Config.packMc1 c.bw c.cr]),
        (7, [0x9E, Config.packMc2 c.sf c.crc]), (8, [0x89, Config.packPa c.power]),
        (9, [0xA0, c.preamble.extractLsb' 8 8]), (10, [0xA1, c.preamble.extractLsb' 0 8]), (11, [0x8E, 0x00]),
        (12, [0x8F, 0x00])] →
    exec .init s = .next { s.afterTransaction sent [r₀, r₁] with seq := some ⟨.init, k + 1⟩ }

/-- 42_radio_driver R183, 60_exceptions R251: INIT ends by reading Version: 0x12 gives success, any other byte
HardwareAbsent with that byte; `mode` and everything else stay. -/
def Obligations.InitEndsWithTheIdentityCheck : Prop :=
  ∀ (s : State) (r₀ v : Byte), s.answers [r₀, v] → s.atStep .init 13 →
    exec .init s = .next
      { s.afterTransaction [0x42, 0x00] [r₀, v] with
        initOk := decide (v = 0x12), seq := none
        result := some (if v = 0x12 then ⟨0, .ok⟩ else ⟨v, .hardwareAbsent⟩) }

/-- 20_memory R84 as a premise, 42_radio_driver R183: when INIT's last transaction completes and the bus trace agrees with
what the spec lets one assume of a genuine radio, of which nothing but that is known (log entry 19), the identity check
passes. -/
def Obligations.GenuineRadioPassesTheIdentityCheck : Prop :=
  ∀ (s t : State) (acts : List RadioAct), s.atStep .init 13 → exec .init s = .next t → t.cs = false →
    RadioObeys acts t.trace → t.initOk = true ∧ t.result = some ⟨0, .ok⟩ ∧ t.seq = none

/-- 42_radio_driver R181: a whole INIT, offered to an idle block with the line quiet and no edge pending: fourteen
steps, the pulse, the twelve writes and the read of Version on the wire in order, `mode` = Standby, `init_ok` by the
last byte. The delay of 10 on the trace stands for at least 10, as the model writes it (log entry 10). -/
def Obligations.WholeInit : Prop :=
  ∀ (s : State) (o : Offer) (rest : List (Option Offer)) (c : RadioConfig) (ins : List Byte) (v : Byte),
    s.ready → s.busReq = none → s.irqPend = false → quietFor 14 s → s.hostIn = some o :: rest →
    o.word = 0x11000000 → o.config = some c → ins.length = 25 → s.answers (ins ++ [v]) →
    ∃ t new, Sys2Proof.core.run 14 s = .next t ∧ t.trace = s.trace ++ new ∧
      offBus new = [.rst false, .delay 10, .rst true, .delay Config.tSettle] ∧
      wireGroups new [] =
        [[0x81, 0x80], [0x81, 0x81], [0x86, (frfWord c.frequency).extractLsb' 16 8],
          [0x87, (frfWord c.frequency).extractLsb' 8 8], [0x88, (frfWord c.frequency).extractLsb' 0 8],
          [0x9D, Config.packMc1 c.bw c.cr], [0x9E, Config.packMc2 c.sf c.crc], [0x89, Config.packPa c.power],
          [0xA0, c.preamble.extractLsb' 8 8], [0xA1, c.preamble.extractLsb' 0 8], [0x8E, 0x00], [0x8F, 0x00],
          [0x42, 0x00]] ∧
      t.mode = .standby ∧ t.resetDone = true ∧ t.initOk = decide (v = 0x12) ∧ t.cfg = some c ∧ t.seq = none ∧
      t.result = some (if v = 0x12 then ⟨0, .ok⟩ else ⟨v, .hardwareAbsent⟩) ∧ t.evTx = s.evTx ∧ t.evRx = s.evRx ∧
      t.evCrc = s.evCrc ∧ t.irqMask = s.irqMask ∧ t.cs = false ∧ t.nreset = true

/-- 40_register_interface R145, 41_mode_fsm R161: INIT, any of whose transfers at a step from 1 to 13 never completes,
stays at that step with `cs` = 1, its mode and `init_ok` as before the step, without a result. -/
def Obligations.InitWithADeadTransferStaysAtItsStep : Prop :=
  ∀ (s : State) (c : RadioConfig) (k : Nat) (sent got : List Byte), s.cfg = some c → s.atStep .init k → s.dies got →
    got.length < sent.length →
    (k, sent) ∈
      [(1, [0x81, 0x80]), (2, [0x81, 0x81]), (3, [0x86, (frfWord c.frequency).extractLsb' 16 8]),
        (4, [0x87, (frfWord c.frequency).extractLsb' 8 8]), (5, [0x88, (frfWord c.frequency).extractLsb' 0 8]),
        (6, [0x9D, Config.packMc1 c.bw c.cr]), (7, [0x9E, Config.packMc2 c.sf c.crc]),
        (8, [0x89, Config.packPa c.power]), (9, [0xA0, c.preamble.extractLsb' 8 8]),
        (10, [0xA1, c.preamble.extractLsb' 0 8]), (11, [0x8E, 0x00]), (12, [0x8F, 0x00]), (13, [0x42, 0x00])] →
    exec .init s = .next (s.stuckIn sent got)

/-! ### SEND -/

/-- 42_radio_driver R185, 60_exceptions R252: SEND of more than 255 bytes is rejected before anything else: no
transaction, status OversizedPayload, `mode` and every flag as before. -/
def Obligations.SendRejectsOversizedPayloads : Prop :=
  ∀ (s : State) (len : Half), s.ready → s.resetDone = true → 255 < len.toNat →
    exec (.send len) s = .next { s with seq := none, result := some ⟨0, .oversizedPayload⟩, declined := none }

/-- 42_radio_driver R184: the five steps of SEND, each one transaction; the payload is the first `len` bytes of the
host's buffer; SEND ends with `mode` = Transmit. -/
def Obligations.SendStepByStep : Prop :=
  ∀ (s : State) (len : Half) (r₀ : Byte) (ins : List Byte), len.toNat ≤ 255 →
    (s.ready → s.resetDone = true → s.answers [r₀, ins.headD 0] →
      exec (.send len) s = .next
        { s.afterTransaction [0x81, 0x81] [r₀, ins.headD 0] with
          mode := .standby, seq := some ⟨.send len, 2⟩, result := none, declined := none }) ∧
    (s.atStep (.send len) 2 → s.answers [r₀, ins.headD 0] →
      exec (.send len) s = .next
        { s.afterTransaction [0x8D, 0x00] [r₀, ins.headD 0] with seq := some ⟨.send len, 3⟩ }) ∧
    (s.atStep (.send len) 3 → len.toNat ≤ s.txBuf.length → ins.length = len.toNat → s.answers (r₀ :: ins) →
      exec (.send len) s = .next
        { s.afterTransaction (0x80 :: s.txBuf.take len.toNat) (r₀ :: ins) with seq := some ⟨.send len, 4⟩ }) ∧
    (s.atStep (.send len) 4 → s.answers [r₀, ins.headD 0] →
      exec (.send len) s = .next
        { s.afterTransaction [0xA2, len.setWidth 8] [r₀, ins.headD 0] with seq := some ⟨.send len, 5⟩ }) ∧
    (s.atStep (.send len) 5 → s.answers [r₀, ins.headD 0] →
      exec (.send len) s = .next
        { s.afterTransaction [0x81, 0x83] [r₀, ins.headD 0] with
          mode := .transmit, seq := none, result := some ⟨0, .ok⟩ })

/-- 42_radio_driver R184, R186: a whole SEND, offered to an idle block with the line quiet and no edge pending: five
transactions on the wire in order, from every mode, ending with `mode` = Transmit and result Ok, the flags as before. -/
def Obligations.WholeSend : Prop :=
  ∀ (s : State) (o : Offer) (rest : List (Option Offer)) (len : Half) (payload ins : List Byte),
    s.ready → s.busReq = none → s.resetDone = true → s.irqPend = false → quietFor 5 s →
    s.hostIn = some o :: rest → o.word = 0x13000000 ||| len.setWidth 32 → o.payload = some payload →
    payload.length = len.toNat → len.toNat ≤ 255 → ins.length = len.toNat + 9 → s.answers ins →
    ∃ t new, Sys2Proof.core.run 5 s = .next t ∧ t.trace = s.trace ++ new ∧ offBus new = [] ∧
      wireGroups new [] =
        [[0x81, 0x81], [0x8D, 0x00], 0x80 :: payload, [0xA2, len.setWidth 8], [0x81, 0x83]] ∧
      t.mode = .transmit ∧ t.seq = none ∧ t.result = some ⟨0, .ok⟩ ∧ t.evTx = s.evTx ∧ t.evRx = s.evRx ∧
      t.evCrc = s.evCrc ∧ t.initOk = s.initOk ∧ t.cfg = s.cfg ∧ t.irqMask = s.irqMask ∧ t.cs = false

/-- 40_register_interface R145, 41_mode_fsm R161: SEND, any of whose transfers never completes, stays at the step of that
transfer with `cs` = 1, its mode as before the step, without a result. -/
def Obligations.SendWithADeadTransferStaysAtItsStep : Prop :=
  ∀ (s : State) (len : Half) (got : List Byte), len.toNat ≤ 255 → s.dies got →
    (s.ready → s.resetDone = true → got.length < 2 →
      exec (.send len) s = .next
        { s.stuckIn [0x81, 0x81] got with seq := some ⟨.send len, 1⟩, result := none, declined := none }) ∧
    (∀ (k : Nat) (sent : List Byte), s.atStep (.send len) k → got.length < sent.length →
      (k, sent) ∈
        [(2, [0x8D, 0x00]), (3, 0x80 :: payloadBytes len.toNat s), (4, [0xA2, len.setWidth 8]), (5, [0x81, 0x83])] →
      exec (.send len) s = .next (s.stuckIn sent got))

/-! ### RECV -/

/-- 42_radio_driver R188: RECV delivers `min(L, C - 1)` bytes, truncating exactly when `L ≥ C`: the first ones the radio
sends, in order, to the host's buffer from index 0, the rest of the buffer as before; the diagnostic TruncatedReceive
comes exactly when it truncates; no step of RECV writes the buffer at or beyond index `C - 1`; and `C` = 0 is no
operand. -/
def Obligations.ReceiveClamp : Prop :=
  (∀ (len : Byte) (cap : Half), cap ≠ 0 →
    clampLen len cap = min len.toNat (cap.toNat - 1) ∧ (truncates len cap = true ↔ cap.toNat ≤ len.toNat)) ∧
  (∀ (s : State) (cap : Half) (r₀ : Byte) (bytes : List Byte), cap ≠ 0 → s.atStep (.recv cap) 4 →
    bytes.length = min s.recvLen.toNat (cap.toNat - 1) → s.answers (r₀ :: bytes) →
      ∃ buf, exec (.recv cap) s = .next
          { s.afterTransaction (0x00 :: List.replicate bytes.length 0x00) (r₀ :: bytes) with
            rxBuf := buf, irqMask := s.maskOld, seq := none
            result := some ⟨BitVec.ofNat 8 bytes.length,
              if cap.toNat ≤ s.recvLen.toNat then .okTruncated else .ok⟩ } ∧
        (∀ x, Memory.read buf x = if x < bytes.length then bytes[x]? else Memory.read s.rxBuf x) ∧
        (Memory.wf s.rxBuf = true → Memory.wf buf = true)) ∧
  (∀ (s : State) (cap : Half) (r₀ len : Byte), cap ≠ 0 → s.ready → s.resetDone = true → s.evRx = true →
    s.answers [r₀, len] →
      ∃ t, exec (.recv cap) s = .next t ∧ t.recvLen = len ∧
        t.trace = s.trace ++ bracketEvents [0x13, 0x00] [r₀, len] ++
          (if cap.toNat ≤ len.toNat then [.diag .truncatedReceive] else [])) ∧
  (∀ (s t : State) (cap : Half) (x : Nat), exec (.recv cap) s = .next t → cap.toNat - 1 ≤ x →
    Memory.read t.rxBuf x = Memory.read s.rxBuf x) ∧
  (Instr.recv 0).wf = false ∧ (decodeCommand 0x14000000).toBool = false

/-- 42_radio_driver R189: RECV with no event pending returns None and does nothing else. -/
def Obligations.RecvWithoutAnEventReturnsNone : Prop :=
  ∀ (s : State) (cap : Half), s.ready → s.resetDone = true → cap ≠ 0 → s.evRx = false →
    exec (.recv cap) s = .next { s with seq := none, result := some ⟨0, .none⟩, declined := none }

/-- 42_radio_driver R187: the first three steps of RECV (the fourth is ReceiveClamp's), masked from the first on: the
event is consumed and the length read, then the start address, then the pointer is written. -/
def Obligations.RecvStepByStep : Prop :=
  ∀ (s : State) (cap : Half) (r₀ r₁ : Byte), cap ≠ 0 → s.answers [r₀, r₁] →
    (s.ready → s.resetDone = true → s.evRx = true →
      exec (.recv cap) s = .next
        { s.afterTransaction [0x13, 0x00] [r₀, r₁] with
          trace := s.trace ++ bracketEvents [0x13, 0x00] [r₀, r₁] ++
            (if cap.toNat ≤ r₁.toNat then [.diag .truncatedReceive] else [])
          evRx := false, maskOld := s.irqMask, irqMask := true, recvLen := r₁
          seq := some ⟨.recv cap, 2⟩, result := none, declined := none }) ∧
    (s.atStep (.recv cap) 2 →
      exec (.recv cap) s = .next
        { s.afterTransaction [0x10, 0x00] [r₀, r₁] with recvPtr := r₁, seq := some ⟨.recv cap, 3⟩ }) ∧
    (s.atStep (.recv cap) 3 →
      exec (.recv cap) s = .next
        { s.afterTransaction [0x8D, s.recvPtr] [r₀, r₁] with seq := some ⟨.recv cap, 4⟩ })

/-- 42_radio_driver R187: a whole RECV with a ReceiveDone event pending, offered to an idle block, whatever the line
`irq` does meanwhile: four transactions with nothing between them, the packet in the host's buffer, `ev_rx` = 0, the
mask as it was. -/
def Obligations.WholeRecv : Prop :=
  ∀ (s : State) (o : Offer) (rest : List (Option Offer)) (cap : Half) (len p a₀ b₀ c₀ c₁ d₀ : Byte)
    (bytes : List Byte),
    s.ready → s.busReq = none → s.resetDone = true → (sampleIrq s).serviceMayStart = false → s.evRx = true →
    s.hostIn = some o :: rest → o.word = 0x14000000 ||| cap.setWidth 32 → cap ≠ 0 →
    bytes.length = min len.toNat (cap.toNat - 1) →
    s.answers ([a₀, len] ++ [b₀, p] ++ [c₀, c₁] ++ d₀ :: bytes) →
    ∃ t new, Sys2Proof.core.run 4 s = .next t ∧ t.trace = s.trace ++ new ∧
      wireGroups new [] = [[0x13, 0x00], [0x10, 0x00], [0x8D, p], 0x00 :: List.replicate bytes.length 0x00] ∧
      offBus new = (if cap.toNat ≤ len.toNat then [.diag .truncatedReceive] else []) ∧
      (∀ x, x < bytes.length → Memory.read t.rxBuf x = bytes[x]?) ∧
      t.result = some ⟨BitVec.ofNat 8 bytes.length, if cap.toNat ≤ len.toNat then .okTruncated else .ok⟩ ∧
      t.evRx = false ∧ t.evTx = s.evTx ∧ t.evCrc = s.evCrc ∧ t.irqMask = s.irqMask ∧ t.mode = s.mode ∧
      t.seq = none ∧ t.inService = false ∧ t.cs = false

/-- 40_register_interface R145, 42_radio_driver R187: RECV, any of whose transfers never completes, stays at the step of
that transfer with `cs` = 1, the event consumed, the mask closed, without a result. That the packet's first bytes are in
the host's buffer already is the model's reading (log entry 7). -/
def Obligations.RecvWithADeadTransferStaysAtItsStep : Prop :=
  ∀ (s : State) (cap : Half) (got : List Byte), cap ≠ 0 → s.dies got →
    (s.ready → s.resetDone = true → s.evRx = true → got.length < 2 →
      exec (.recv cap) s = .next
        { s.stuckIn [0x13, 0x00] got with
          evRx := false, maskOld := s.irqMask, irqMask := true
          seq := some ⟨.recv cap, 1⟩, result := none, declined := none }) ∧
    (s.atStep (.recv cap) 2 → got.length < 2 → exec (.recv cap) s = .next (s.stuckIn [0x10, 0x00] got)) ∧
    (s.atStep (.recv cap) 3 → got.length < 2 → exec (.recv cap) s = .next (s.stuckIn [0x8D, s.recvPtr] got)) ∧
    (s.atStep (.recv cap) 4 → got.length < min s.recvLen.toNat (cap.toNat - 1) + 1 →
      exec (.recv cap) s = .next
        { s.stuckIn (0x00 :: List.replicate (min s.recvLen.toNat (cap.toNat - 1)) 0x00) got with
          rxBuf := Memory.writeRun s.rxBuf 0 (got.drop 1) })

/-! ### Event flags and mask -/

/-- 43_event_decoder R209: the words 0x20, `a` = 1, 2, 3 are EVTAKE of TxDone, RxDone, CrcError; EVTAKE tests and clears
the named flag in one step, with the result Ok when it was 1, else None; nothing else changes. -/
def Obligations.EvtakeTestsAndClears : Prop :=
  (decodeCommand 0x20010000 = .ok (.evtake .txDone) ∧ decodeCommand 0x20020000 = .ok (.evtake .rxDone) ∧
    decodeCommand 0x20030000 = .ok (.evtake .crcError)) ∧
  ∀ s : State, s.ready →
    exec (.evtake .txDone) s = .next
      { s with evTx := false, result := some ⟨0, if s.evTx then .ok else .none⟩, declined := none } ∧
    exec (.evtake .rxDone) s = .next
      { s with evRx := false, result := some ⟨0, if s.evRx then .ok else .none⟩, declined := none } ∧
    exec (.evtake .crcError) s = .next
      { s with evCrc := false, result := some ⟨0, if s.evCrc then .ok else .none⟩, declined := none }

/-- 43_event_decoder R210: the words 0x21, `a` = 1, 2, 3 are EVCLEAR of TxDone, RxDone, CrcError; EVCLEAR clears the named
flag, result Ok; nothing else changes. -/
def Obligations.EvclearClears : Prop :=
  (decodeCommand 0x21010000 = .ok (.evclear .txDone) ∧ decodeCommand 0x21020000 = .ok (.evclear .rxDone) ∧
    decodeCommand 0x21030000 = .ok (.evclear .crcError)) ∧
  ∀ s : State, s.ready →
    exec (.evclear .txDone) s = .next { s with evTx := false, result := some ⟨0, .ok⟩, declined := none } ∧
    exec (.evclear .rxDone) s = .next { s with evRx := false, result := some ⟨0, .ok⟩, declined := none } ∧
    exec (.evclear .crcError) s = .next { s with evCrc := false, result := some ⟨0, .ok⟩, declined := none }

/-- 43_event_decoder R211: the words 0x22, `a` = 1, 2, 3 are EVPEEK of TxDone, RxDone, CrcError; EVPEEK reads the named
flag and leaves it; nothing else changes. -/
def Obligations.EvpeekReads : Prop :=
  (decodeCommand 0x22010000 = .ok (.evpeek .txDone) ∧ decodeCommand 0x22020000 = .ok (.evpeek .rxDone) ∧
    decodeCommand 0x22030000 = .ok (.evpeek .crcError)) ∧
  ∀ s : State, s.ready →
    exec (.evpeek .txDone) s = .next
      { s with result := some ⟨0, if s.evTx then .ok else .none⟩, declined := none } ∧
    exec (.evpeek .rxDone) s = .next
      { s with result := some ⟨0, if s.evRx then .ok else .none⟩, declined := none } ∧
    exec (.evpeek .crcError) s = .next
      { s with result := some ⟨0, if s.evCrc then .ok else .none⟩, declined := none }

/-- 43_event_decoder R212: IRQMASK writes `irq_mask`, result Ok; a latched edge stays latched, nothing else changes. -/
def Obligations.IrqmaskWritesTheMask : Prop :=
  ∀ (s : State) (b : Bool), s.ready →
    exec (.irqmask b) s = .next { s with irqMask := b, result := some ⟨0, .ok⟩, declined := none }

/-! ### Frames -/

/-- 30_encoding R101: frame W1 is the header `0x80 | addr` and the value in one bracket, the replies discarded. -/
def Obligations.FrameW1 : Prop :=
  ∀ (s : State) (a : Addr) (v r₀ r₁ : Byte), s.cs = false → s.answers [r₀, r₁] →
    exec (.w1 a v) s = .next { s.afterTransaction [0x80 ||| a.setWidth 8, v] [r₀, r₁] with kept := [] }

/-- 30_encoding R102: frame R1 is the header `addr & 0x7F` and one byte (the dummy 0x00 in every frame of the block) in
one bracket; the reply to the header is discarded, the second reply is the result. -/
def Obligations.FrameR1 : Prop :=
  Config.dummy = 0x00 ∧
  ∀ (s : State) (a : Addr) (d r₀ v : Byte), s.cs = false → s.answers [r₀, v] →
    exec (.r1 a d) s = .next { s.afterTransaction [a.setWidth 8 &&& 0x7F, d] [r₀, v] with kept := [v] }

/-- 30_encoding R103: frame WB is the header 0x80 and the full payload in index order, in one bracket, the replies
discarded; a payload above 255 bytes is no frame. -/
def Obligations.FrameWB : Prop :=
  ∀ (s : State) (data ins : List Byte) (r₀ : Byte), s.cs = false → ins.length = data.length →
    s.answers (r₀ :: ins) →
    exec (.wb data) s = .next
      (if data.length ≤ 255 then { s.afterTransaction (0x80 :: data) (r₀ :: ins) with kept := [] }
        else { s with result := none, declined := some .noCommand })

/-- 30_encoding R104: frame RB is the header 0x00 and `n` dummies in one bracket; the replies to the dummies are the
data. -/
def Obligations.FrameRB : Prop :=
  ∀ (s : State) (n r₀ : Byte) (ins : List Byte), s.cs = false → ins.length = n.toNat → s.answers (r₀ :: ins) →
    exec (.rb n) s = .next
      { s.afterTransaction (0x00 :: List.replicate n.toNat 0x00) (r₀ :: ins) with kept := ins }

/-! ### The interrupt service -/

/-- 43_event_decoder R204: the decode, first match wins, for every byte: CrcError if the CRC bit is set and the receive
bit clear, ReceiveDone if the receive bit is set and the CRC bit clear, else TransmitDone if its bit is set, else None;
the worked values. -/
def Obligations.DecodeOfFlagsByPriority : Prop :=
  (∀ f : Byte,
    (f &&& Config.irqCrcErr ≠ 0 → f &&& Config.irqRxDone = 0 → decodeEvent f = .crcError) ∧
    (f &&& Config.irqRxDone ≠ 0 → f &&& Config.irqCrcErr = 0 → decodeEvent f = .receiveDone) ∧
    ((f &&& Config.irqCrcErr = 0 ↔ f &&& Config.irqRxDone = 0) → f &&& Config.irqTxDone ≠ 0 →
      decodeEvent f = .transmitDone) ∧
    ((f &&& Config.irqCrcErr = 0 ↔ f &&& Config.irqRxDone = 0) → f &&& Config.irqTxDone = 0 →
      decodeEvent f = .none)) ∧
  decodeEvent 0x08 = .transmitDone ∧ decodeEvent 0x40 = .receiveDone ∧ decodeEvent 0x20 = .crcError ∧
  decodeEvent 0x60 = .none ∧ decodeEvent 0x68 = .transmitDone ∧ decodeEvent 0x48 = .receiveDone ∧
  decodeEvent 0x28 = .crcError ∧ decodeEvent 0x00 = .none ∧ decodeEvent 0x97 = .none ∧
  decodeEvent 0xFF = .transmitDone

/-- 43_event_decoder R202, 60_exceptions R263: the service starts by reading IrqFlags: `irq_pend` = 0, `in_service` = 1,
the flags byte held; `seq` and everything else stay. -/
def Obligations.ServiceBeginsByReadingTheFlags : Prop :=
  ∀ (s : State) (r₀ f : Byte), s.serviceMayStart = true → s.answers [r₀, f] →
    exec .irqsvc s = .next
      { s.afterTransaction [0x12, 0x00] [r₀, f] with irqPend := false, inService := true, svcFlags := some f }

/-- 43_event_decoder R202, R203, R205, 41_mode_fsm R164: the service writes 0xFF to IrqFlags whatever was read, then the
event of the byte read takes effect: one flag, the automatic edge, a diagnostic, or nothing but a diagnostic; then
`in_service` = 0. Everything else stays. -/
def Obligations.ServiceEndsByClearingAndApplying : Prop :=
  ∀ (s : State) (r₀ r₁ f : Byte), s.cs = false → s.inService = true → s.svcFlags = some f → s.answers [r₀, r₁] →
    exec .irqsvc s = .next
      { s.afterTransaction [0x92, 0xFF] [r₀, r₁] with
        trace := s.trace ++ bracketEvents [0x92, 0xFF] [r₀, r₁] ++
          (match decodeEvent f with
            | .crcError => [.diag .crcFailure]
            | .none => [.diag .noneEvent]
            | .transmitDone => []
            | .receiveDone => [])
        evTx := s.evTx || decodeEvent f == .transmitDone
        evRx := s.evRx || decodeEvent f == .receiveDone
        evCrc := s.evCrc || decodeEvent f == .crcError
        mode := if decodeEvent f = .transmitDone ∧ s.mode = .transmit then .standby else s.mode
        inService := false, svcFlags := none }

/-- 40_register_interface R145, 43_event_decoder R202: a service, any of whose transfers never completes, stays where it
is: `cs` = 1, `in_service` = 1, no event takes effect, and the main context's position is held. -/
def Obligations.ServiceWithADeadTransferStaysInService : Prop :=
  ∀ (s : State) (got : List Byte), got.length < 2 → s.dies got →
    (s.serviceMayStart = true →
      exec .irqsvc s = .next { s.stuckIn [0x12, 0x00] got with irqPend := false, inService := true }) ∧
    (∀ f, s.cs = false → s.inService = true → s.svcFlags = some f →
      exec .irqsvc s = .next (s.stuckIn [0x92, 0xFF] got))

/-- 43_event_decoder R216, R202, R214, 60_exceptions R265: a whole service, wherever the main context stands: exactly
two adjacent transactions, both at IrqFlags; then the main context's position, `irq_mask` and the host's offers are as
they were; an edge that came during the service is latched for a second one. -/
def Obligations.WholeService : Prop :=
  ∀ (s : State) (a₀ f b₀ b₁ : Byte) (before during : List Bool) (rest : List (List Bool)),
    s.irqIn = before :: during :: rest → s.cs = false → s.inService = false →
    (sampleIrq s).serviceMayStart = true → s.answers [a₀, f, b₀, b₁] →
    ∃ t, Sys2Proof.core.run 2 s = .next t ∧
      (∃ new, t.trace = s.trace ++ new ∧ wireGroups new [] = [[0x12, 0x00], [0x92, 0xFF]]) ∧
      t.inService = false ∧ t.cs = false ∧ t.seq = s.seq ∧ t.irqMask = s.irqMask ∧ t.hostIn = s.hostIn ∧
      t.result = s.result ∧ t.rxBuf = s.rxBuf ∧
      t.irqPend = hasRise (sampleIrq s).irqPrev during ∧
      (t.evRx = true ↔ s.evRx = true ∨ decodeEvent f = .receiveDone)
end

