-- ==== Sys2Proof/Laws/State.lean ====
section
/-! SUPPORT. One lemma per field per update of State, true by unfolding, so that no proof unfolds a record update. -/

namespace Sys2Proof.Machine

/-- Two states with equal fields are equal: how an equation between states is proved field by field. -/
theorem State.ext_fields {s t : State}
    (e_mode : s.mode = t.mode)
    (e_resetDone : s.resetDone = t.resetDone)
    (e_initOk : s.initOk = t.initOk)
    (e_cfg : s.cfg = t.cfg)
    (e_evTx : s.evTx = t.evTx)
    (e_evRx : s.evRx = t.evRx)
    (e_evCrc : s.evCrc = t.evCrc)
    (e_irqPrev : s.irqPrev = t.irqPrev)
    (e_irqPend : s.irqPend = t.irqPend)
    (e_irqMask : s.irqMask = t.irqMask)
    (e_inService : s.inService = t.inService)
    (e_seq : s.seq = t.seq)
    (e_cs : s.cs = t.cs)
    (e_nreset : s.nreset = t.nreset)
    (e_recvLen : s.recvLen = t.recvLen)
    (e_recvPtr : s.recvPtr = t.recvPtr)
    (e_maskOld : s.maskOld = t.maskOld)
    (e_svcFlags : s.svcFlags = t.svcFlags)
    (e_hostIn : s.hostIn = t.hostIn)
    (e_txBuf : s.txBuf = t.txBuf)
    (e_cfgIn : s.cfgIn = t.cfgIn)
    (e_rxBuf : s.rxBuf = t.rxBuf)
    (e_result : s.result = t.result)
    (e_declined : s.declined = t.declined)
    (e_busReq : s.busReq = t.busReq)
    (e_kept : s.kept = t.kept)
    (e_trace : s.trace = t.trace)
    (e_replies : s.replies = t.replies)
    (e_replyTick : s.replyTick = t.replyTick)
    (e_irqIn : s.irqIn = t.irqIn)
    (e_irqTick : s.irqTick = t.irqTick) : s = t := by
  cases s; cases t; simp only at *; subst_vars; rfl

/-! ### emit -/

@[simp] theorem State.emit_mode (e : Event) (s : State) : (s.emit e).mode = s.mode := rfl
@[simp] theorem State.emit_resetDone (e : Event) (s : State) : (s.emit e).resetDone = s.resetDone := rfl
@[simp] theorem State.emit_initOk (e : Event) (s : State) : (s.emit e).initOk = s.initOk := rfl
@[simp] theorem State.emit_cfg (e : Event) (s : State) : (s.emit e).cfg = s.cfg := rfl
@[simp] theorem State.emit_evTx (e : Event) (s : State) : (s.emit e).evTx = s.evTx := rfl
@[simp] theorem State.emit_evRx (e : Event) (s : State) : (s.emit e).evRx = s.evRx := rfl
@[simp] theorem State.emit_evCrc (e : Event) (s : State) : (s.emit e).evCrc = s.evCrc := rfl
@[simp] theorem State.emit_irqPrev (e : Event) (s : State) : (s.emit e).irqPrev = s.irqPrev := rfl
@[simp] theorem State.emit_irqPend (e : Event) (s : State) : (s.emit e).irqPend = s.irqPend := rfl
@[simp] theorem State.emit_irqMask (e : Event) (s : State) : (s.emit e).irqMask = s.irqMask := rfl
@[simp] theorem State.emit_inService (e : Event) (s : State) : (s.emit e).inService = s.inService := rfl
@[simp] theorem State.emit_seq (e : Event) (s : State) : (s.emit e).seq = s.seq := rfl
@[simp] theorem State.emit_cs (e : Event) (s : State) : (s.emit e).cs = s.cs := rfl
@[simp] theorem State.emit_nreset (e : Event) (s : State) : (s.emit e).nreset = s.nreset := rfl
@[simp] theorem State.emit_recvLen (e : Event) (s : State) : (s.emit e).recvLen = s.recvLen := rfl
@[simp] theorem State.emit_recvPtr (e : Event) (s : State) : (s.emit e).recvPtr = s.recvPtr := rfl
@[simp] theorem State.emit_maskOld (e : Event) (s : State) : (s.emit e).maskOld = s.maskOld := rfl
@[simp] theorem State.emit_svcFlags (e : Event) (s : State) : (s.emit e).svcFlags = s.svcFlags := rfl
@[simp] theorem State.emit_hostIn (e : Event) (s : State) : (s.emit e).hostIn = s.hostIn := rfl
@[simp] theorem State.emit_txBuf (e : Event) (s : State) : (s.emit e).txBuf = s.txBuf := rfl
@[simp] theorem State.emit_cfgIn (e : Event) (s : State) : (s.emit e).cfgIn = s.cfgIn := rfl
@[simp] theorem State.emit_rxBuf (e : Event) (s : State) : (s.emit e).rxBuf = s.rxBuf := rfl
@[simp] theorem State.emit_result (e : Event) (s : State) : (s.emit e).result = s.result := rfl
@[simp] theorem State.emit_declined (e : Event) (s : State) : (s.emit e).declined = s.declined := rfl
@[simp] theorem State.emit_busReq (e : Event) (s : State) : (s.emit e).busReq = s.busReq := rfl
@[simp] theorem State.emit_kept (e : Event) (s : State) : (s.emit e).kept = s.kept := rfl
@[simp] theorem State.emit_trace (e : Event) (s : State) : (s.emit e).trace = s.trace ++ [e] := rfl
@[simp] theorem State.emit_replies (e : Event) (s : State) : (s.emit e).replies = s.replies := rfl
@[simp] theorem State.emit_replyTick (e : Event) (s : State) : (s.emit e).replyTick = s.replyTick := rfl
@[simp] theorem State.emit_irqIn (e : Event) (s : State) : (s.emit e).irqIn = s.irqIn := rfl
@[simp] theorem State.emit_irqTick (e : Event) (s : State) : (s.emit e).irqTick = s.irqTick := rfl

/-! ### sel -/

@[simp] theorem State.sel_mode (s : State) : s.sel.mode = s.mode := rfl
@[simp] theorem State.sel_resetDone (s : State) : s.sel.resetDone = s.resetDone := rfl
@[simp] theorem State.sel_initOk (s : State) : s.sel.initOk = s.initOk := rfl
@[simp] theorem State.sel_cfg (s : State) : s.sel.cfg = s.cfg := rfl
@[simp] theorem State.sel_evTx (s : State) : s.sel.evTx = s.evTx := rfl
@[simp] theorem State.sel_evRx (s : State) : s.sel.evRx = s.evRx := rfl
@[simp] theorem State.sel_evCrc (s : State) : s.sel.evCrc = s.evCrc := rfl
@[simp] theorem State.sel_irqPrev (s : State) : s.sel.irqPrev = s.irqPrev := rfl
@[simp] theorem State.sel_irqPend (s : State) : s.sel.irqPend = s.irqPend := rfl
@[simp] theorem State.sel_irqMask (s : State) : s.sel.irqMask = s.irqMask := rfl
@[simp] theorem State.sel_inService (s : State) : s.sel.inService = s.inService := rfl
@[simp] theorem State.sel_seq (s : State) : s.sel.seq = s.seq := rfl
@[simp] theorem State.sel_cs (s : State) : s.sel.cs = true := rfl
@[simp] theorem State.sel_nreset (s : State) : s.sel.nreset = s.nreset := rfl
@[simp] theorem State.sel_recvLen (s : State) : s.sel.recvLen = s.recvLen := rfl
@[simp] theorem State.sel_recvPtr (s : State) : s.sel.recvPtr = s.recvPtr := rfl
@[simp] theorem State.sel_maskOld (s : State) : s.sel.maskOld = s.maskOld := rfl
@[simp] theorem State.sel_svcFlags (s : State) : s.sel.svcFlags = s.svcFlags := rfl
@[simp] theorem State.sel_hostIn (s : State) : s.sel.hostIn = s.hostIn := rfl
@[simp] theorem State.sel_txBuf (s : State) : s.sel.txBuf = s.txBuf := rfl
@[simp] theorem State.sel_cfgIn (s : State) : s.sel.cfgIn = s.cfgIn := rfl
@[simp] theorem State.sel_rxBuf (s : State) : s.sel.rxBuf = s.rxBuf := rfl
@[simp] theorem State.sel_result (s : State) : s.sel.result = s.result := rfl
@[simp] theorem State.sel_declined (s : State) : s.sel.declined = s.declined := rfl
@[simp] theorem State.sel_busReq (s : State) : s.sel.busReq = s.busReq := rfl
@[simp] theorem State.sel_kept (s : State) : s.sel.kept = s.kept := rfl
@[simp] theorem State.sel_trace (s : State) : s.sel.trace = s.trace ++ [.sel] := rfl
@[simp] theorem State.sel_replies (s : State) : s.sel.replies = s.replies := rfl
@[simp] theorem State.sel_replyTick (s : State) : s.sel.replyTick = s.replyTick := rfl
@[simp] theorem State.sel_irqIn (s : State) : s.sel.irqIn = s.irqIn := rfl
@[simp] theorem State.sel_irqTick (s : State) : s.sel.irqTick = s.irqTick := rfl

/-! ### desel -/

@[simp] theorem State.desel_mode (s : State) : s.desel.mode = s.mode := rfl
@[simp] theorem State.desel_resetDone (s : State) : s.desel.resetDone = s.resetDone := rfl
@[simp] theorem State.desel_initOk (s : State) : s.desel.initOk = s.initOk := rfl
@[simp] theorem State.desel_cfg (s : State) : s.desel.cfg = s.cfg := rfl
@[simp] theorem State.desel_evTx (s : State) : s.desel.evTx = s.evTx := rfl
@[simp] theorem State.desel_evRx (s : State) : s.desel.evRx = s.evRx := rfl
@[simp] theorem State.desel_evCrc (s : State) : s.desel.evCrc = s.evCrc := rfl
@[simp] theorem State.desel_irqPrev (s : State) : s.desel.irqPrev = s.irqPrev := rfl
@[simp] theorem State.desel_irqPend (s : State) : s.desel.irqPend = s.irqPend := rfl
@[simp] theorem State.desel_irqMask (s : State) : s.desel.irqMask = s.irqMask := rfl
@[simp] theorem State.desel_inService (s : State) : s.desel.inService = s.inService := rfl
@[simp] theorem State.desel_seq (s : State) : s.desel.seq = s.seq := rfl
@[simp] theorem State.desel_cs (s : State) : s.desel.cs = false := rfl
@[simp] theorem State.desel_nreset (s : State) : s.desel.nreset = s.nreset := rfl
@[simp] theorem State.desel_recvLen (s : State) : s.desel.recvLen = s.recvLen := rfl
@[simp] theorem State.desel_recvPtr (s : State) : s.desel.recvPtr = s.recvPtr := rfl
@[simp] theorem State.desel_maskOld (s : State) : s.desel.maskOld = s.maskOld := rfl
@[simp] theorem State.desel_svcFlags (s : State) : s.desel.svcFlags = s.svcFlags := rfl
@[simp] theorem State.desel_hostIn (s : State) : s.desel.hostIn = s.hostIn := rfl
@[simp] theorem State.desel_txBuf (s : State) : s.desel.txBuf = s.txBuf := rfl
@[simp] theorem State.desel_cfgIn (s : State) : s.desel.cfgIn = s.cfgIn := rfl
@[simp] theorem State.desel_rxBuf (s : State) : s.desel.rxBuf = s.rxBuf := rfl
@[simp] theorem State.desel_result (s : State) : s.desel.result = s.result := rfl
@[simp] theorem State.desel_declined (s : State) : s.desel.declined = s.declined := rfl
@[simp] theorem State.desel_busReq (s : State) : s.desel.busReq = s.busReq := rfl
@[simp] theorem State.desel_kept (s : State) : s.desel.kept = s.kept := rfl
@[simp] theorem State.desel_trace (s : State) : s.desel.trace = s.trace ++ [.desel] := rfl
@[simp] theorem State.desel_replies (s : State) : s.desel.replies = s.replies := rfl
@[simp] theorem State.desel_replyTick (s : State) : s.desel.replyTick = s.replyTick := rfl
@[simp] theorem State.desel_irqIn (s : State) : s.desel.irqIn = s.irqIn := rfl
@[simp] theorem State.desel_irqTick (s : State) : s.desel.irqTick = s.irqTick := rfl

/-! ### accept -/

@[simp] theorem State.accept_mode (i : Instr) (k : Nat) (s : State) : (s.accept i k).mode = s.mode := rfl
@[simp] theorem State.accept_resetDone (i : Instr) (k : Nat) (s : State) : (s.accept i k).resetDone = s.resetDone := rfl
@[simp] theorem State.accept_initOk (i : Instr) (k : Nat) (s : State) : (s.accept i k).initOk = s.initOk := rfl
@[simp] theorem State.accept_cfg (i : Instr) (k : Nat) (s : State) : (s.accept i k).cfg = s.cfg := rfl
@[simp] theorem State.accept_evTx (i : Instr) (k : Nat) (s : State) : (s.accept i k).evTx = s.evTx := rfl
@[simp] theorem State.accept_evRx (i : Instr) (k : Nat) (s : State) : (s.accept i k).evRx = s.evRx := rfl
@[simp] theorem State.accept_evCrc (i : Instr) (k : Nat) (s : State) : (s.accept i k).evCrc = s.evCrc := rfl
@[simp] theorem State.accept_irqPrev (i : Instr) (k : Nat) (s : State) : (s.accept i k).irqPrev = s.irqPrev := rfl
@[simp] theorem State.accept_irqPend (i : Instr) (k : Nat) (s : State) : (s.accept i k).irqPend = s.irqPend := rfl
@[simp] theorem State.accept_irqMask (i : Instr) (k : Nat) (s : State) : (s.accept i k).irqMask = s.irqMask := rfl
@[simp] theorem State.accept_inService (i : Instr) (k : Nat) (s : State) : (s.accept i k).inService = s.inService := rfl
@[simp] theorem State.accept_seq (i : Instr) (k : Nat) (s : State) : (s.accept i k).seq = some ⟨i, k⟩ := rfl
@[simp] theorem State.accept_cs (i : Instr) (k : Nat) (s : State) : (s.accept i k).cs = s.cs := rfl
@[simp] theorem State.accept_nreset (i : Instr) (k : Nat) (s : State) : (s.accept i k).nreset = s.nreset := rfl
@[simp] theorem State.accept_recvLen (i : Instr) (k : Nat) (s : State) : (s.accept i k).recvLen = s.recvLen := rfl
@[simp] theorem State.accept_recvPtr (i : Instr) (k : Nat) (s : State) : (s.accept i k).recvPtr = s.recvPtr := rfl
@[simp] theorem State.accept_maskOld (i : Instr) (k : Nat) (s : State) : (s.accept i k).maskOld = s.maskOld := rfl
@[simp] theorem State.accept_svcFlags (i : Instr) (k : Nat) (s : State) : (s.accept i k).svcFlags = s.svcFlags := rfl
@[simp] theorem State.accept_hostIn (i : Instr) (k : Nat) (s : State) : (s.accept i k).hostIn = s.hostIn := rfl
@[simp] theorem State.accept_txBuf (i : Instr) (k : Nat) (s : State) : (s.accept i k).txBuf = s.txBuf := rfl
@[simp] theorem State.accept_cfgIn (i : Instr) (k : Nat) (s : State) : (s.accept i k).cfgIn = s.cfgIn := rfl
@[simp] theorem State.accept_rxBuf (i : Instr) (k : Nat) (s : State) : (s.accept i k).rxBuf = s.rxBuf := rfl
@[simp] theorem State.accept_result (i : Instr) (k : Nat) (s : State) : (s.accept i k).result = none := rfl
@[simp] theorem State.accept_declined (i : Instr) (k : Nat) (s : State) : (s.accept i k).declined = none := rfl
@[simp] theorem State.accept_busReq (i : Instr) (k : Nat) (s : State) : (s.accept i k).busReq = s.busReq := rfl
@[simp] theorem State.accept_kept (i : Instr) (k : Nat) (s : State) : (s.accept i k).kept = s.kept := rfl
@[simp] theorem State.accept_trace (i : Instr) (k : Nat) (s : State) : (s.accept i k).trace = s.trace := rfl
@[simp] theorem State.accept_replies (i : Instr) (k : Nat) (s : State) : (s.accept i k).replies = s.replies := rfl
@[simp] theorem State.accept_replyTick (i : Instr) (k : Nat) (s : State) : (s.accept i k).replyTick = s.replyTick := rfl
@[simp] theorem State.accept_irqIn (i : Instr) (k : Nat) (s : State) : (s.accept i k).irqIn = s.irqIn := rfl
@[simp] theorem State.accept_irqTick (i : Instr) (k : Nat) (s : State) : (s.accept i k).irqTick = s.irqTick := rfl

/-! ### advance -/

@[simp] theorem State.advance_mode (i : Instr) (k : Nat) (s : State) : (s.advance i k).mode = s.mode := rfl
@[simp] theorem State.advance_resetDone (i : Instr) (k : Nat) (s : State) : (s.advance i k).resetDone = s.resetDone := rfl
@[simp] theorem State.advance_initOk (i : Instr) (k : Nat) (s : State) : (s.advance i k).initOk = s.initOk := rfl
@[simp] theorem State.advance_cfg (i : Instr) (k : Nat) (s : State) : (s.advance i k).cfg = s.cfg := rfl
@[simp] theorem State.advance_evTx (i : Instr) (k : Nat) (s : State) : (s.advance i k).evTx = s.evTx := rfl
@[simp] theorem State.advance_evRx (i : Instr) (k : Nat) (s : State) : (s.advance i k).evRx = s.evRx := rfl
@[simp] theorem State.advance_evCrc (i : Instr) (k : Nat) (s : State) : (s.advance i k).evCrc = s.evCrc := rfl
@[simp] theorem State.advance_irqPrev (i : Instr) (k : Nat) (s : State) : (s.advance i k).irqPrev = s.irqPrev := rfl
@[simp] theorem State.advance_irqPend (i : Instr) (k : Nat) (s : State) : (s.advance i k).irqPend = s.irqPend := rfl
@[simp] theorem State.advance_irqMask (i : Instr) (k : Nat) (s : State) : (s.advance i k).irqMask = s.irqMask := rfl
@[simp] theorem State.advance_inService (i : Instr) (k : Nat) (s : State) : (s.advance i k).inService = s.inService := rfl
@[simp] theorem State.advance_seq (i : Instr) (k : Nat) (s : State) : (s.advance i k).seq = some ⟨i, k⟩ := rfl
@[simp] theorem State.advance_cs (i : Instr) (k : Nat) (s : State) : (s.advance i k).cs = s.cs := rfl
@[simp] theorem State.advance_nreset (i : Instr) (k : Nat) (s : State) : (s.advance i k).nreset = s.nreset := rfl
@[simp] theorem State.advance_recvLen (i : Instr) (k : Nat) (s : State) : (s.advance i k).recvLen = s.recvLen := rfl
@[simp] theorem State.advance_recvPtr (i : Instr) (k : Nat) (s : State) : (s.advance i k).recvPtr = s.recvPtr := rfl
@[simp] theorem State.advance_maskOld (i : Instr) (k : Nat) (s : State) : (s.advance i k).maskOld = s.maskOld := rfl
@[simp] theorem State.advance_svcFlags (i : Instr) (k : Nat) (s : State) : (s.advance i k).svcFlags = s.svcFlags := rfl
@[simp] theorem State.advance_hostIn (i : Instr) (k : Nat) (s : State) : (s.advance i k).hostIn = s.hostIn := rfl
@[simp] theorem State.advance_txBuf (i : Instr) (k : Nat) (s : State) : (s.advance i k).txBuf = s.txBuf := rfl
@[simp] theorem State.advance_cfgIn (i : Instr) (k : Nat) (s : State) : (s.advance i k).cfgIn = s.cfgIn := rfl
@[simp] theorem State.advance_rxBuf (i : Instr) (k : Nat) (s : State) : (s.advance i k).rxBuf = s.rxBuf := rfl
@[simp] theorem State.advance_result (i : Instr) (k : Nat) (s : State) : (s.advance i k).result = s.result := rfl
@[simp] theorem State.advance_declined (i : Instr) (k : Nat) (s : State) : (s.advance i k).declined = s.declined := rfl
@[simp] theorem State.advance_busReq (i : Instr) (k : Nat) (s : State) : (s.advance i k).busReq = s.busReq := rfl
@[simp] theorem State.advance_kept (i : Instr) (k : Nat) (s : State) : (s.advance i k).kept = s.kept := rfl
@[simp] theorem State.advance_trace (i : Instr) (k : Nat) (s : State) : (s.advance i k).trace = s.trace := rfl
@[simp] theorem State.advance_replies (i : Instr) (k : Nat) (s : State) : (s.advance i k).replies = s.replies := rfl
@[simp] theorem State.advance_replyTick (i : Instr) (k : Nat) (s : State) : (s.advance i k).replyTick = s.replyTick := rfl
@[simp] theorem State.advance_irqIn (i : Instr) (k : Nat) (s : State) : (s.advance i k).irqIn = s.irqIn := rfl
@[simp] theorem State.advance_irqTick (i : Instr) (k : Nat) (s : State) : (s.advance i k).irqTick = s.irqTick := rfl

/-! ### finish -/

@[simp] theorem State.finish_mode (r : Result) (s : State) : (s.finish r).mode = s.mode := rfl
@[simp] theorem State.finish_resetDone (r : Result) (s : State) : (s.finish r).resetDone = s.resetDone := rfl
@[simp] theorem State.finish_initOk (r : Result) (s : State) : (s.finish r).initOk = s.initOk := rfl
@[simp] theorem State.finish_cfg (r : Result) (s : State) : (s.finish r).cfg = s.cfg := rfl
@[simp] theorem State.finish_evTx (r : Result) (s : State) : (s.finish r).evTx = s.evTx := rfl
@[simp] theorem State.finish_evRx (r : Result) (s : State) : (s.finish r).evRx = s.evRx := rfl
@[simp] theorem State.finish_evCrc (r : Result) (s : State) : (s.finish r).evCrc = s.evCrc := rfl
@[simp] theorem State.finish_irqPrev (r : Result) (s : State) : (s.finish r).irqPrev = s.irqPrev := rfl
@[simp] theorem State.finish_irqPend (r : Result) (s : State) : (s.finish r).irqPend = s.irqPend := rfl
@[simp] theorem State.finish_irqMask (r : Result) (s : State) : (s.finish r).irqMask = s.irqMask := rfl
@[simp] theorem State.finish_inService (r : Result) (s : State) : (s.finish r).inService = s.inService := rfl
@[simp] theorem State.finish_seq (r : Result) (s : State) : (s.finish r).seq = none := rfl
@[simp] theorem State.finish_cs (r : Result) (s : State) : (s.finish r).cs = s.cs := rfl
@[simp] theorem State.finish_nreset (r : Result) (s : State) : (s.finish r).nreset = s.nreset := rfl
@[simp] theorem State.finish_recvLen (r : Result) (s : State) : (s.finish r).recvLen = s.recvLen := rfl
@[simp] theorem State.finish_recvPtr (r : Result) (s : State) : (s.finish r).recvPtr = s.recvPtr := rfl
@[simp] theorem State.finish_maskOld (r : Result) (s : State) : (s.finish r).maskOld = s.maskOld := rfl
@[simp] theorem State.finish_svcFlags (r : Result) (s : State) : (s.finish r).svcFlags = s.svcFlags := rfl
@[simp] theorem State.finish_hostIn (r : Result) (s : State) : (s.finish r).hostIn = s.hostIn := rfl
@[simp] theorem State.finish_txBuf (r : Result) (s : State) : (s.finish r).txBuf = s.txBuf := rfl
@[simp] theorem State.finish_cfgIn (r : Result) (s : State) : (s.finish r).cfgIn = s.cfgIn := rfl
@[simp] theorem State.finish_rxBuf (r : Result) (s : State) : (s.finish r).rxBuf = s.rxBuf := rfl
@[simp] theorem State.finish_result (r : Result) (s : State) : (s.finish r).result = some r := rfl
@[simp] theorem State.finish_declined (r : Result) (s : State) : (s.finish r).declined = s.declined := rfl
@[simp] theorem State.finish_busReq (r : Result) (s : State) : (s.finish r).busReq = s.busReq := rfl
@[simp] theorem State.finish_kept (r : Result) (s : State) : (s.finish r).kept = s.kept := rfl
@[simp] theorem State.finish_trace (r : Result) (s : State) : (s.finish r).trace = s.trace := rfl
@[simp] theorem State.finish_replies (r : Result) (s : State) : (s.finish r).replies = s.replies := rfl
@[simp] theorem State.finish_replyTick (r : Result) (s : State) : (s.finish r).replyTick = s.replyTick := rfl
@[simp] theorem State.finish_irqIn (r : Result) (s : State) : (s.finish r).irqIn = s.irqIn := rfl
@[simp] theorem State.finish_irqTick (r : Result) (s : State) : (s.finish r).irqTick = s.irqTick := rfl

/-! ### decline -/

@[simp] theorem State.decline_mode (d : Decline) (s : State) : (s.decline d).mode = s.mode := rfl
@[simp] theorem State.decline_resetDone (d : Decline) (s : State) : (s.decline d).resetDone = s.resetDone := rfl
@[simp] theorem State.decline_initOk (d : Decline) (s : State) : (s.decline d).initOk = s.initOk := rfl
@[simp] theorem State.decline_cfg (d : Decline) (s : State) : (s.decline d).cfg = s.cfg := rfl
@[simp] theorem State.decline_evTx (d : Decline) (s : State) : (s.decline d).evTx = s.evTx := rfl
@[simp] theorem State.decline_evRx (d : Decline) (s : State) : (s.decline d).evRx = s.evRx := rfl
@[simp] theorem State.decline_evCrc (d : Decline) (s : State) : (s.decline d).evCrc = s.evCrc := rfl
@[simp] theorem State.decline_irqPrev (d : Decline) (s : State) : (s.decline d).irqPrev = s.irqPrev := rfl
@[simp] theorem State.decline_irqPend (d : Decline) (s : State) : (s.decline d).irqPend = s.irqPend := rfl
@[simp] theorem State.decline_irqMask (d : Decline) (s : State) : (s.decline d).irqMask = s.irqMask := rfl
@[simp] theorem State.decline_inService (d : Decline) (s : State) : (s.decline d).inService = s.inService := rfl
@[simp] theorem State.decline_seq (d : Decline) (s : State) : (s.decline d).seq = s.seq := rfl
@[simp] theorem State.decline_cs (d : Decline) (s : State) : (s.decline d).cs = s.cs := rfl
@[simp] theorem State.decline_nreset (d : Decline) (s : State) : (s.decline d).nreset = s.nreset := rfl
@[simp] theorem State.decline_recvLen (d : Decline) (s : State) : (s.decline d).recvLen = s.recvLen := rfl
@[simp] theorem State.decline_recvPtr (d : Decline) (s : State) : (s.decline d).recvPtr = s.recvPtr := rfl
@[simp] theorem State.decline_maskOld (d : Decline) (s : State) : (s.decline d).maskOld = s.maskOld := rfl
@[simp] theorem State.decline_svcFlags (d : Decline) (s : State) : (s.decline d).svcFlags = s.svcFlags := rfl
@[simp] theorem State.decline_hostIn (d : Decline) (s : State) : (s.decline d).hostIn = s.hostIn := rfl
@[simp] theorem State.decline_txBuf (d : Decline) (s : State) : (s.decline d).txBuf = s.txBuf := rfl
@[simp] theorem State.decline_cfgIn (d : Decline) (s : State) : (s.decline d).cfgIn = s.cfgIn := rfl
@[simp] theorem State.decline_rxBuf (d : Decline) (s : State) : (s.decline d).rxBuf = s.rxBuf := rfl
@[simp] theorem State.decline_result (d : Decline) (s : State) : (s.decline d).result = none := rfl
@[simp] theorem State.decline_declined (d : Decline) (s : State) : (s.decline d).declined = some d := rfl
@[simp] theorem State.decline_busReq (d : Decline) (s : State) : (s.decline d).busReq = s.busReq := rfl
@[simp] theorem State.decline_kept (d : Decline) (s : State) : (s.decline d).kept = s.kept := rfl
@[simp] theorem State.decline_trace (d : Decline) (s : State) : (s.decline d).trace = s.trace := rfl
@[simp] theorem State.decline_replies (d : Decline) (s : State) : (s.decline d).replies = s.replies := rfl
@[simp] theorem State.decline_replyTick (d : Decline) (s : State) : (s.decline d).replyTick = s.replyTick := rfl
@[simp] theorem State.decline_irqIn (d : Decline) (s : State) : (s.decline d).irqIn = s.irqIn := rfl
@[simp] theorem State.decline_irqTick (d : Decline) (s : State) : (s.decline d).irqTick = s.irqTick := rfl

/-! ### openMask -/

@[simp] theorem State.openMask_mode (s : State) : s.openMask.mode = s.mode := rfl
@[simp] theorem State.openMask_resetDone (s : State) : s.openMask.resetDone = s.resetDone := rfl
@[simp] theorem State.openMask_initOk (s : State) : s.openMask.initOk = s.initOk := rfl
@[simp] theorem State.openMask_cfg (s : State) : s.openMask.cfg = s.cfg := rfl
@[simp] theorem State.openMask_evTx (s : State) : s.openMask.evTx = s.evTx := rfl
@[simp] theorem State.openMask_evRx (s : State) : s.openMask.evRx = s.evRx := rfl
@[simp] theorem State.openMask_evCrc (s : State) : s.openMask.evCrc = s.evCrc := rfl
@[simp] theorem State.openMask_irqPrev (s : State) : s.openMask.irqPrev = s.irqPrev := rfl
@[simp] theorem State.openMask_irqPend (s : State) : s.openMask.irqPend = s.irqPend := rfl
@[simp] theorem State.openMask_irqMask (s : State) : s.openMask.irqMask = true := rfl
@[simp] theorem State.openMask_inService (s : State) : s.openMask.inService = s.inService := rfl
@[simp] theorem State.openMask_seq (s : State) : s.openMask.seq = s.seq := rfl
@[simp] theorem State.openMask_cs (s : State) : s.openMask.cs = s.cs := rfl
@[simp] theorem State.openMask_nreset (s : State) : s.openMask.nreset = s.nreset := rfl
@[simp] theorem State.openMask_recvLen (s : State) : s.openMask.recvLen = s.recvLen := rfl
@[simp] theorem State.openMask_recvPtr (s : State) : s.openMask.recvPtr = s.recvPtr := rfl
@[simp] theorem State.openMask_maskOld (s : State) : s.openMask.maskOld = s.irqMask := rfl
@[simp] theorem State.openMask_svcFlags (s : State) : s.openMask.svcFlags = s.svcFlags := rfl
@[simp] theorem State.openMask_hostIn (s : State) : s.openMask.hostIn = s.hostIn := rfl
@[simp] theorem State.openMask_txBuf (s : State) : s.openMask.txBuf = s.txBuf := rfl
@[simp] theorem State.openMask_cfgIn (s : State) : s.openMask.cfgIn = s.cfgIn := rfl
@[simp] theorem State.openMask_rxBuf (s : State) : s.openMask.rxBuf = s.rxBuf := rfl
@[simp] theorem State.openMask_result (s : State) : s.openMask.result = s.result := rfl
@[simp] theorem State.openMask_declined (s : State) : s.openMask.declined = s.declined := rfl
@[simp] theorem State.openMask_busReq (s : State) : s.openMask.busReq = s.busReq := rfl
@[simp] theorem State.openMask_kept (s : State) : s.openMask.kept = s.kept := rfl
@[simp] theorem State.openMask_trace (s : State) : s.openMask.trace = s.trace := rfl
@[simp] theorem State.openMask_replies (s : State) : s.openMask.replies = s.replies := rfl
@[simp] theorem State.openMask_replyTick (s : State) : s.openMask.replyTick = s.replyTick := rfl
@[simp] theorem State.openMask_irqIn (s : State) : s.openMask.irqIn = s.irqIn := rfl
@[simp] theorem State.openMask_irqTick (s : State) : s.openMask.irqTick = s.irqTick := rfl

/-! ### closeMask -/

@[simp] theorem State.closeMask_mode (s : State) : s.closeMask.mode = s.mode := rfl
@[simp] theorem State.closeMask_resetDone (s : State) : s.closeMask.resetDone = s.resetDone := rfl
@[simp] theorem State.closeMask_initOk (s : State) : s.closeMask.initOk = s.initOk := rfl
@[simp] theorem State.closeMask_cfg (s : State) : s.closeMask.cfg = s.cfg := rfl
@[simp] theorem State.closeMask_evTx (s : State) : s.closeMask.evTx = s.evTx := rfl
@[simp] theorem State.closeMask_evRx (s : State) : s.closeMask.evRx = s.evRx := rfl
@[simp] theorem State.closeMask_evCrc (s : State) : s.closeMask.evCrc = s.evCrc := rfl
@[simp] theorem State.closeMask_irqPrev (s : State) : s.closeMask.irqPrev = s.irqPrev := rfl
@[simp] theorem State.closeMask_irqPend (s : State) : s.closeMask.irqPend = s.irqPend := rfl
@[simp] theorem State.closeMask_irqMask (s : State) : s.closeMask.irqMask = s.maskOld := rfl
@[simp] theorem State.closeMask_inService (s : State) : s.closeMask.inService = s.inService := rfl
@[simp] theorem State.closeMask_seq (s : State) : s.closeMask.seq = s.seq := rfl
@[simp] theorem State.closeMask_cs (s : State) : s.closeMask.cs = s.cs := rfl
@[simp] theorem State.closeMask_nreset (s : State) : s.closeMask.nreset = s.nreset := rfl
@[simp] theorem State.closeMask_recvLen (s : State) : s.closeMask.recvLen = s.recvLen := rfl
@[simp] theorem State.closeMask_recvPtr (s : State) : s.closeMask.recvPtr = s.recvPtr := rfl
@[simp] theorem State.closeMask_maskOld (s : State) : s.closeMask.maskOld = s.maskOld := rfl
@[simp] theorem State.closeMask_svcFlags (s : State) : s.closeMask.svcFlags = s.svcFlags := rfl
@[simp] theorem State.closeMask_hostIn (s : State) : s.closeMask.hostIn = s.hostIn := rfl
@[simp] theorem State.closeMask_txBuf (s : State) : s.closeMask.txBuf = s.txBuf := rfl
@[simp] theorem State.closeMask_cfgIn (s : State) : s.closeMask.cfgIn = s.cfgIn := rfl
@[simp] theorem State.closeMask_rxBuf (s : State) : s.closeMask.rxBuf = s.rxBuf := rfl
@[simp] theorem State.closeMask_result (s : State) : s.closeMask.result = s.result := rfl
@[simp] theorem State.closeMask_declined (s : State) : s.closeMask.declined = s.declined := rfl
@[simp] theorem State.closeMask_busReq (s : State) : s.closeMask.busReq = s.busReq := rfl
@[simp] theorem State.closeMask_kept (s : State) : s.closeMask.kept = s.kept := rfl
@[simp] theorem State.closeMask_trace (s : State) : s.closeMask.trace = s.trace := rfl
@[simp] theorem State.closeMask_replies (s : State) : s.closeMask.replies = s.replies := rfl
@[simp] theorem State.closeMask_replyTick (s : State) : s.closeMask.replyTick = s.replyTick := rfl
@[simp] theorem State.closeMask_irqIn (s : State) : s.closeMask.irqIn = s.irqIn := rfl
@[simp] theorem State.closeMask_irqTick (s : State) : s.closeMask.irqTick = s.irqTick := rfl

/-! ### enterService -/

@[simp] theorem State.enterService_mode (s : State) : s.enterService.mode = s.mode := rfl
@[simp] theorem State.enterService_resetDone (s : State) : s.enterService.resetDone = s.resetDone := rfl
@[simp] theorem State.enterService_initOk (s : State) : s.enterService.initOk = s.initOk := rfl
@[simp] theorem State.enterService_cfg (s : State) : s.enterService.cfg = s.cfg := rfl
@[simp] theorem State.enterService_evTx (s : State) : s.enterService.evTx = s.evTx := rfl
@[simp] theorem State.enterService_evRx (s : State) : s.enterService.evRx = s.evRx := rfl
@[simp] theorem State.enterService_evCrc (s : State) : s.enterService.evCrc = s.evCrc := rfl
@[simp] theorem State.enterService_irqPrev (s : State) : s.enterService.irqPrev = s.irqPrev := rfl
@[simp] theorem State.enterService_irqPend (s : State) : s.enterService.irqPend = false := rfl
@[simp] theorem State.enterService_irqMask (s : State) : s.enterService.irqMask = s.irqMask := rfl
@[simp] theorem State.enterService_inService (s : State) : s.enterService.inService = true := rfl
@[simp] theorem State.enterService_seq (s : State) : s.enterService.seq = s.seq := rfl
@[simp] theorem State.enterService_cs (s : State) : s.enterService.cs = s.cs := rfl
@[simp] theorem State.enterService_nreset (s : State) : s.enterService.nreset = s.nreset := rfl
@[simp] theorem State.enterService_recvLen (s : State) : s.enterService.recvLen = s.recvLen := rfl
@[simp] theorem State.enterService_recvPtr (s : State) : s.enterService.recvPtr = s.recvPtr := rfl
@[simp] theorem State.enterService_maskOld (s : State) : s.enterService.maskOld = s.maskOld := rfl
@[simp] theorem State.enterService_svcFlags (s : State) : s.enterService.svcFlags = s.svcFlags := rfl
@[simp] theorem State.enterService_hostIn (s : State) : s.enterService.hostIn = s.hostIn := rfl
@[simp] theorem State.enterService_txBuf (s : State) : s.enterService.txBuf = s.txBuf := rfl
@[simp] theorem State.enterService_cfgIn (s : State) : s.enterService.cfgIn = s.cfgIn := rfl
@[simp] theorem State.enterService_rxBuf (s : State) : s.enterService.rxBuf = s.rxBuf := rfl
@[simp] theorem State.enterService_result (s : State) : s.enterService.result = s.result := rfl
@[simp] theorem State.enterService_declined (s : State) : s.enterService.declined = s.declined := rfl
@[simp] theorem State.enterService_busReq (s : State) : s.enterService.busReq = s.busReq := rfl
@[simp] theorem State.enterService_kept (s : State) : s.enterService.kept = s.kept := rfl
@[simp] theorem State.enterService_trace (s : State) : s.enterService.trace = s.trace := rfl
@[simp] theorem State.enterService_replies (s : State) : s.enterService.replies = s.replies := rfl
@[simp] theorem State.enterService_replyTick (s : State) : s.enterService.replyTick = s.replyTick := rfl
@[simp] theorem State.enterService_irqIn (s : State) : s.enterService.irqIn = s.irqIn := rfl
@[simp] theorem State.enterService_irqTick (s : State) : s.enterService.irqTick = s.irqTick := rfl

/-! ### leaveService -/

@[simp] theorem State.leaveService_mode (s : State) : s.leaveService.mode = s.mode := rfl
@[simp] theorem State.leaveService_resetDone (s : State) : s.leaveService.resetDone = s.resetDone := rfl
@[simp] theorem State.leaveService_initOk (s : State) : s.leaveService.initOk = s.initOk := rfl
@[simp] theorem State.leaveService_cfg (s : State) : s.leaveService.cfg = s.cfg := rfl
@[simp] theorem State.leaveService_evTx (s : State) : s.leaveService.evTx = s.evTx := rfl
@[simp] theorem State.leaveService_evRx (s : State) : s.leaveService.evRx = s.evRx := rfl
@[simp] theorem State.leaveService_evCrc (s : State) : s.leaveService.evCrc = s.evCrc := rfl
@[simp] theorem State.leaveService_irqPrev (s : State) : s.leaveService.irqPrev = s.irqPrev := rfl
@[simp] theorem State.leaveService_irqPend (s : State) : s.leaveService.irqPend = s.irqPend := rfl
@[simp] theorem State.leaveService_irqMask (s : State) : s.leaveService.irqMask = s.irqMask := rfl
@[simp] theorem State.leaveService_inService (s : State) : s.leaveService.inService = false := rfl
@[simp] theorem State.leaveService_seq (s : State) : s.leaveService.seq = s.seq := rfl
@[simp] theorem State.leaveService_cs (s : State) : s.leaveService.cs = s.cs := rfl
@[simp] theorem State.leaveService_nreset (s : State) : s.leaveService.nreset = s.nreset := rfl
@[simp] theorem State.leaveService_recvLen (s : State) : s.leaveService.recvLen = s.recvLen := rfl
@[simp] theorem State.leaveService_recvPtr (s : State) : s.leaveService.recvPtr = s.recvPtr := rfl
@[simp] theorem State.leaveService_maskOld (s : State) : s.leaveService.maskOld = s.maskOld := rfl
@[simp] theorem State.leaveService_svcFlags (s : State) : s.leaveService.svcFlags = none := rfl
@[simp] theorem State.leaveService_hostIn (s : State) : s.leaveService.hostIn = s.hostIn := rfl
@[simp] theorem State.leaveService_txBuf (s : State) : s.leaveService.txBuf = s.txBuf := rfl
@[simp] theorem State.leaveService_cfgIn (s : State) : s.leaveService.cfgIn = s.cfgIn := rfl
@[simp] theorem State.leaveService_rxBuf (s : State) : s.leaveService.rxBuf = s.rxBuf := rfl
@[simp] theorem State.leaveService_result (s : State) : s.leaveService.result = s.result := rfl
@[simp] theorem State.leaveService_declined (s : State) : s.leaveService.declined = s.declined := rfl
@[simp] theorem State.leaveService_busReq (s : State) : s.leaveService.busReq = s.busReq := rfl
@[simp] theorem State.leaveService_kept (s : State) : s.leaveService.kept = s.kept := rfl
@[simp] theorem State.leaveService_trace (s : State) : s.leaveService.trace = s.trace := rfl
@[simp] theorem State.leaveService_replies (s : State) : s.leaveService.replies = s.replies := rfl
@[simp] theorem State.leaveService_replyTick (s : State) : s.leaveService.replyTick = s.replyTick := rfl
@[simp] theorem State.leaveService_irqIn (s : State) : s.leaveService.irqIn = s.irqIn := rfl
@[simp] theorem State.leaveService_irqTick (s : State) : s.leaveService.irqTick = s.irqTick := rfl

/-! ### resetSequence -/

@[simp] theorem State.resetSequence_mode (s : State) : s.resetSequence.mode = .preSleep := rfl
@[simp] theorem State.resetSequence_resetDone (s : State) : s.resetSequence.resetDone = true := rfl
@[simp] theorem State.resetSequence_initOk (s : State) : s.resetSequence.initOk = false := rfl
@[simp] theorem State.resetSequence_cfg (s : State) : s.resetSequence.cfg = s.cfg := rfl
@[simp] theorem State.resetSequence_evTx (s : State) : s.resetSequence.evTx = s.evTx := rfl
@[simp] theorem State.resetSequence_evRx (s : State) : s.resetSequence.evRx = s.evRx := rfl
@[simp] theorem State.resetSequence_evCrc (s : State) : s.resetSequence.evCrc = s.evCrc := rfl
@[simp] theorem State.resetSequence_irqPrev (s : State) : s.resetSequence.irqPrev = s.irqPrev := rfl
@[simp] theorem State.resetSequence_irqPend (s : State) : s.resetSequence.irqPend = s.irqPend := rfl
@[simp] theorem State.resetSequence_irqMask (s : State) : s.resetSequence.irqMask = s.irqMask := rfl
@[simp] theorem State.resetSequence_inService (s : State) : s.resetSequence.inService = s.inService := rfl
@[simp] theorem State.resetSequence_seq (s : State) : s.resetSequence.seq = s.seq := rfl
@[simp] theorem State.resetSequence_cs (s : State) : s.resetSequence.cs = s.cs := rfl
@[simp] theorem State.resetSequence_nreset (s : State) : s.resetSequence.nreset = true := rfl
@[simp] theorem State.resetSequence_recvLen (s : State) : s.resetSequence.recvLen = s.recvLen := rfl
@[simp] theorem State.resetSequence_recvPtr (s : State) : s.resetSequence.recvPtr = s.recvPtr := rfl
@[simp] theorem State.resetSequence_maskOld (s : State) : s.resetSequence.maskOld = s.maskOld := rfl
@[simp] theorem State.resetSequence_svcFlags (s : State) : s.resetSequence.svcFlags = s.svcFlags := rfl
@[simp] theorem State.resetSequence_hostIn (s : State) : s.resetSequence.hostIn = s.hostIn := rfl
@[simp] theorem State.resetSequence_txBuf (s : State) : s.resetSequence.txBuf = s.txBuf := rfl
@[simp] theorem State.resetSequence_cfgIn (s : State) : s.resetSequence.cfgIn = s.cfgIn := rfl
@[simp] theorem State.resetSequence_rxBuf (s : State) : s.resetSequence.rxBuf = s.rxBuf := rfl
@[simp] theorem State.resetSequence_result (s : State) : s.resetSequence.result = s.result := rfl
@[simp] theorem State.resetSequence_declined (s : State) : s.resetSequence.declined = s.declined := rfl
@[simp] theorem State.resetSequence_busReq (s : State) : s.resetSequence.busReq = s.busReq := rfl
@[simp] theorem State.resetSequence_kept (s : State) : s.resetSequence.kept = s.kept := rfl
@[simp] theorem State.resetSequence_trace (s : State) : s.resetSequence.trace = s.trace ++ resetPulse := rfl
@[simp] theorem State.resetSequence_replies (s : State) : s.resetSequence.replies = s.replies := rfl
@[simp] theorem State.resetSequence_replyTick (s : State) : s.resetSequence.replyTick = s.replyTick := rfl
@[simp] theorem State.resetSequence_irqIn (s : State) : s.resetSequence.irqIn = s.irqIn := rfl
@[simp] theorem State.resetSequence_irqTick (s : State) : s.resetSequence.irqTick = s.irqTick := rfl

/-! ### takeOffer -/

@[simp] theorem State.takeOffer_mode (o : Offer) (rest : List (Option Offer)) (s : State) : (s.takeOffer o rest).mode = s.mode := rfl
@[simp] theorem State.takeOffer_resetDone (o : Offer) (rest : List (Option Offer)) (s : State) : (s.takeOffer o rest).resetDone = s.resetDone := rfl
@[simp] theorem State.takeOffer_initOk (o : Offer) (rest : List (Option Offer)) (s : State) : (s.takeOffer o rest).initOk = s.initOk := rfl
@[simp] theorem State.takeOffer_cfg (o : Offer) (rest : List (Option Offer)) (s : State) : (s.takeOffer o rest).cfg = s.cfg := rfl
@[simp] theorem State.takeOffer_evTx (o : Offer) (rest : List (Option Offer)) (s : State) : (s.takeOffer o rest).evTx = s.evTx := rfl
@[simp] theorem State.takeOffer_evRx (o : Offer) (rest : List (Option Offer)) (s : State) : (s.takeOffer o rest).evRx = s.evRx := rfl
@[simp] theorem State.takeOffer_evCrc (o : Offer) (rest : List (Option Offer)) (s : State) : (s.takeOffer o rest).evCrc = s.evCrc := rfl
@[simp] theorem State.takeOffer_irqPrev (o : Offer) (rest : List (Option Offer)) (s : State) : (s.takeOffer o rest).irqPrev = s.irqPrev := rfl
@[simp] theorem State.takeOffer_irqPend (o : Offer) (rest : List (Option Offer)) (s : State) : (s.takeOffer o rest).irqPend = s.irqPend := rfl
@[simp] theorem State.takeOffer_irqMask (o : Offer) (rest : List (Option Offer)) (s : State) : (s.takeOffer o rest).irqMask = s.irqMask := rfl
@[simp] theorem State.takeOffer_inService (o : Offer) (rest : List (Option Offer)) (s : State) : (s.takeOffer o rest).inService = s.inService := rfl
@[simp] theorem State.takeOffer_seq (o : Offer) (rest : List (Option Offer)) (s : State) : (s.takeOffer o rest).seq = s.seq := rfl
@[simp] theorem State.takeOffer_cs (o : Offer) (rest : List (Option Offer)) (s : State) : (s.takeOffer o rest).cs = s.cs := rfl
@[simp] theorem State.takeOffer_nreset (o : Offer) (rest : List (Option Offer)) (s : State) : (s.takeOffer o rest).nreset = s.nreset := rfl
@[simp] theorem State.takeOffer_recvLen (o : Offer) (rest : List (Option Offer)) (s : State) : (s.takeOffer o rest).recvLen = s.recvLen := rfl
@[simp] theorem State.takeOffer_recvPtr (o : Offer) (rest : List (Option Offer)) (s : State) : (s.takeOffer o rest).recvPtr = s.recvPtr := rfl
@[simp] theorem State.takeOffer_maskOld (o : Offer) (rest : List (Option Offer)) (s : State) : (s.takeOffer o rest).maskOld = s.maskOld := rfl
@[simp] theorem State.takeOffer_svcFlags (o : Offer) (rest : List (Option Offer)) (s : State) : (s.takeOffer o rest).svcFlags = s.svcFlags := rfl
@[simp] theorem State.takeOffer_hostIn (o : Offer) (rest : List (Option Offer)) (s : State) : (s.takeOffer o rest).hostIn = rest := rfl
@[simp] theorem State.takeOffer_txBuf (o : Offer) (rest : List (Option Offer)) (s : State) : (s.takeOffer o rest).txBuf = o.payload.getD s.txBuf := rfl
@[simp] theorem State.takeOffer_cfgIn (o : Offer) (rest : List (Option Offer)) (s : State) : (s.takeOffer o rest).cfgIn = o.config.getD s.cfgIn := rfl
@[simp] theorem State.takeOffer_rxBuf (o : Offer) (rest : List (Option Offer)) (s : State) : (s.takeOffer o rest).rxBuf = if o.freshRx then [] else s.rxBuf := rfl
@[simp] theorem State.takeOffer_result (o : Offer) (rest : List (Option Offer)) (s : State) : (s.takeOffer o rest).result = s.result := rfl
@[simp] theorem State.takeOffer_declined (o : Offer) (rest : List (Option Offer)) (s : State) : (s.takeOffer o rest).declined = s.declined := rfl
@[simp] theorem State.takeOffer_busReq (o : Offer) (rest : List (Option Offer)) (s : State) : (s.takeOffer o rest).busReq = s.busReq := rfl
@[simp] theorem State.takeOffer_kept (o : Offer) (rest : List (Option Offer)) (s : State) : (s.takeOffer o rest).kept = s.kept := rfl
@[simp] theorem State.takeOffer_trace (o : Offer) (rest : List (Option Offer)) (s : State) : (s.takeOffer o rest).trace = s.trace := rfl
@[simp] theorem State.takeOffer_replies (o : Offer) (rest : List (Option Offer)) (s : State) : (s.takeOffer o rest).replies = s.replies := rfl
@[simp] theorem State.takeOffer_replyTick (o : Offer) (rest : List (Option Offer)) (s : State) : (s.takeOffer o rest).replyTick = s.replyTick := rfl
@[simp] theorem State.takeOffer_irqIn (o : Offer) (rest : List (Option Offer)) (s : State) : (s.takeOffer o rest).irqIn = s.irqIn := rfl
@[simp] theorem State.takeOffer_irqTick (o : Offer) (rest : List (Option Offer)) (s : State) : (s.takeOffer o rest).irqTick = s.irqTick := rfl

/-! ### sampleIrq -/

@[simp] theorem sampleIrq_mode (s : State) : (sampleIrq s).mode = s.mode := rfl
@[simp] theorem sampleIrq_resetDone (s : State) : (sampleIrq s).resetDone = s.resetDone := rfl
@[simp] theorem sampleIrq_initOk (s : State) : (sampleIrq s).initOk = s.initOk := rfl
@[simp] theorem sampleIrq_cfg (s : State) : (sampleIrq s).cfg = s.cfg := rfl
@[simp] theorem sampleIrq_evTx (s : State) : (sampleIrq s).evTx = s.evTx := rfl
@[simp] theorem sampleIrq_evRx (s : State) : (sampleIrq s).evRx = s.evRx := rfl
@[simp] theorem sampleIrq_evCrc (s : State) : (sampleIrq s).evCrc = s.evCrc := rfl
@[simp] theorem sampleIrq_irqPrev (s : State) : (sampleIrq s).irqPrev = lastLevel s.irqPrev s.nextLevels := rfl
@[simp] theorem sampleIrq_irqPend (s : State) : (sampleIrq s).irqPend = (s.irqPend || hasRise s.irqPrev s.nextLevels) := rfl
@[simp] theorem sampleIrq_irqMask (s : State) : (sampleIrq s).irqMask = s.irqMask := rfl
@[simp] theorem sampleIrq_inService (s : State) : (sampleIrq s).inService = s.inService := rfl
@[simp] theorem sampleIrq_seq (s : State) : (sampleIrq s).seq = s.seq := rfl
@[simp] theorem sampleIrq_cs (s : State) : (sampleIrq s).cs = s.cs := rfl
@[simp] theorem sampleIrq_nreset (s : State) : (sampleIrq s).nreset = s.nreset := rfl
@[simp] theorem sampleIrq_recvLen (s : State) : (sampleIrq s).recvLen = s.recvLen := rfl
@[simp] theorem sampleIrq_recvPtr (s : State) : (sampleIrq s).recvPtr = s.recvPtr := rfl
@[simp] theorem sampleIrq_maskOld (s : State) : (sampleIrq s).maskOld = s.maskOld := rfl
@[simp] theorem sampleIrq_svcFlags (s : State) : (sampleIrq s).svcFlags = s.svcFlags := rfl
@[simp] theorem sampleIrq_hostIn (s : State) : (sampleIrq s).hostIn = s.hostIn := rfl
@[simp] theorem sampleIrq_txBuf (s : State) : (sampleIrq s).txBuf = s.txBuf := rfl
@[simp] theorem sampleIrq_cfgIn (s : State) : (sampleIrq s).cfgIn = s.cfgIn := rfl
@[simp] theorem sampleIrq_rxBuf (s : State) : (sampleIrq s).rxBuf = s.rxBuf := rfl
@[simp] theorem sampleIrq_result (s : State) : (sampleIrq s).result = s.result := rfl
@[simp] theorem sampleIrq_declined (s : State) : (sampleIrq s).declined = s.declined := rfl
@[simp] theorem sampleIrq_busReq (s : State) : (sampleIrq s).busReq = s.busReq := rfl
@[simp] theorem sampleIrq_kept (s : State) : (sampleIrq s).kept = s.kept := rfl
@[simp] theorem sampleIrq_trace (s : State) : (sampleIrq s).trace = s.trace := rfl
@[simp] theorem sampleIrq_replies (s : State) : (sampleIrq s).replies = s.replies := rfl
@[simp] theorem sampleIrq_replyTick (s : State) : (sampleIrq s).replyTick = s.replyTick := rfl
@[simp] theorem sampleIrq_irqIn (s : State) : (sampleIrq s).irqIn = s.irqIn.tail := rfl
@[simp] theorem sampleIrq_irqTick (s : State) : (sampleIrq s).irqTick = if s.irqIn.isEmpty then s.irqTick + 1 else s.irqTick := rfl

/-! ### dropReply -/

@[simp] theorem State.dropReply_mode (s : State) : s.dropReply.mode = s.mode := by unfold State.dropReply; split <;> rfl
@[simp] theorem State.dropReply_resetDone (s : State) : s.dropReply.resetDone = s.resetDone := by unfold State.dropReply; split <;> rfl
@[simp] theorem State.dropReply_initOk (s : State) : s.dropReply.initOk = s.initOk := by unfold State.dropReply; split <;> rfl
@[simp] theorem State.dropReply_cfg (s : State) : s.dropReply.cfg = s.cfg := by unfold State.dropReply; split <;> rfl
@[simp] theorem State.dropReply_evTx (s : State) : s.dropReply.evTx = s.evTx := by unfold State.dropReply; split <;> rfl
@[simp] theorem State.dropReply_evRx (s : State) : s.dropReply.evRx = s.evRx := by unfold State.dropReply; split <;> rfl
@[simp] theorem State.dropReply_evCrc (s : State) : s.dropReply.evCrc = s.evCrc := by unfold State.dropReply; split <;> rfl
@[simp] theorem State.dropReply_irqPrev (s : State) : s.dropReply.irqPrev = s.irqPrev := by unfold State.dropReply; split <;> rfl
@[simp] theorem State.dropReply_irqPend (s : State) : s.dropReply.irqPend = s.irqPend := by unfold State.dropReply; split <;> rfl
@[simp] theorem State.dropReply_irqMask (s : State) : s.dropReply.irqMask = s.irqMask := by unfold State.dropReply; split <;> rfl
@[simp] theorem State.dropReply_inService (s : State) : s.dropReply.inService = s.inService := by unfold State.dropReply; split <;> rfl
@[simp] theorem State.dropReply_seq (s : State) : s.dropReply.seq = s.seq := by unfold State.dropReply; split <;> rfl
@[simp] theorem State.dropReply_cs (s : State) : s.dropReply.cs = s.cs := by unfold State.dropReply; split <;> rfl
@[simp] theorem State.dropReply_nreset (s : State) : s.dropReply.nreset = s.nreset := by unfold State.dropReply; split <;> rfl
@[simp] theorem State.dropReply_recvLen (s : State) : s.dropReply.recvLen = s.recvLen := by unfold State.dropReply; split <;> rfl
@[simp] theorem State.dropReply_recvPtr (s : State) : s.dropReply.recvPtr = s.recvPtr := by unfold State.dropReply; split <;> rfl
@[simp] theorem State.dropReply_maskOld (s : State) : s.dropReply.maskOld = s.maskOld := by unfold State.dropReply; split <;> rfl
@[simp] theorem State.dropReply_svcFlags (s : State) : s.dropReply.svcFlags = s.svcFlags := by unfold State.dropReply; split <;> rfl
@[simp] theorem State.dropReply_hostIn (s : State) : s.dropReply.hostIn = s.hostIn := by unfold State.dropReply; split <;> rfl
@[simp] theorem State.dropReply_txBuf (s : State) : s.dropReply.txBuf = s.txBuf := by unfold State.dropReply; split <;> rfl
@[simp] theorem State.dropReply_cfgIn (s : State) : s.dropReply.cfgIn = s.cfgIn := by unfold State.dropReply; split <;> rfl
@[simp] theorem State.dropReply_rxBuf (s : State) : s.dropReply.rxBuf = s.rxBuf := by unfold State.dropReply; split <;> rfl
@[simp] theorem State.dropReply_result (s : State) : s.dropReply.result = s.result := by unfold State.dropReply; split <;> rfl
@[simp] theorem State.dropReply_declined (s : State) : s.dropReply.declined = s.declined := by unfold State.dropReply; split <;> rfl
@[simp] theorem State.dropReply_busReq (s : State) : s.dropReply.busReq = s.busReq := by unfold State.dropReply; split <;> rfl
@[simp] theorem State.dropReply_kept (s : State) : s.dropReply.kept = s.kept := by unfold State.dropReply; split <;> rfl
@[simp] theorem State.dropReply_trace (s : State) : s.dropReply.trace = s.trace := by unfold State.dropReply; split <;> rfl
@[simp] theorem State.dropReply_irqIn (s : State) : s.dropReply.irqIn = s.irqIn := by unfold State.dropReply; split <;> rfl
@[simp] theorem State.dropReply_irqTick (s : State) : s.dropReply.irqTick = s.irqTick := by unfold State.dropReply; split <;> rfl
@[simp] theorem State.dropReply_replies (s : State) : s.dropReply.replies = s.replies.tail := by
  unfold State.dropReply; split <;> simp_all

/-! ### setFlag -/

@[simp] theorem State.setFlag_mode (k : EventKind) (b : Bool) (s : State) : (s.setFlag k b).mode = s.mode := by cases k <;> rfl
@[simp] theorem State.setFlag_resetDone (k : EventKind) (b : Bool) (s : State) : (s.setFlag k b).resetDone = s.resetDone := by cases k <;> rfl
@[simp] theorem State.setFlag_initOk (k : EventKind) (b : Bool) (s : State) : (s.setFlag k b).initOk = s.initOk := by cases k <;> rfl
@[simp] theorem State.setFlag_cfg (k : EventKind) (b : Bool) (s : State) : (s.setFlag k b).cfg = s.cfg := by cases k <;> rfl
@[simp] theorem State.setFlag_irqPrev (k : EventKind) (b : Bool) (s : State) : (s.setFlag k b).irqPrev = s.irqPrev := by cases k <;> rfl
@[simp] theorem State.setFlag_irqPend (k : EventKind) (b : Bool) (s : State) : (s.setFlag k b).irqPend = s.irqPend := by cases k <;> rfl
@[simp] theorem State.setFlag_irqMask (k : EventKind) (b : Bool) (s : State) : (s.setFlag k b).irqMask = s.irqMask := by cases k <;> rfl
@[simp] theorem State.setFlag_inService (k : EventKind) (b : Bool) (s : State) : (s.setFlag k b).inService = s.inService := by cases k <;> rfl
@[simp] theorem State.setFlag_seq (k : EventKind) (b : Bool) (s : State) : (s.setFlag k b).seq = s.seq := by cases k <;> rfl
@[simp] theorem State.setFlag_cs (k : EventKind) (b : Bool) (s : State) : (s.setFlag k b).cs = s.cs := by cases k <;> rfl
@[simp] theorem State.setFlag_nreset (k : EventKind) (b : Bool) (s : State) : (s.setFlag k b).nreset = s.nreset := by cases k <;> rfl
@[simp] theorem State.setFlag_recvLen (k : EventKind) (b : Bool) (s : State) : (s.setFlag k b).recvLen = s.recvLen := by cases k <;> rfl
@[simp] theorem State.setFlag_recvPtr (k : EventKind) (b : Bool) (s : State) : (s.setFlag k b).recvPtr = s.recvPtr := by cases k <;> rfl
@[simp] theorem State.setFlag_maskOld (k : EventKind) (b : Bool) (s : State) : (s.setFlag k b).maskOld = s.maskOld := by cases k <;> rfl
@[simp] theorem State.setFlag_svcFlags (k : EventKind) (b : Bool) (s : State) : (s.setFlag k b).svcFlags = s.svcFlags := by cases k <;> rfl
@[simp] theorem State.setFlag_hostIn (k : EventKind) (b : Bool) (s : State) : (s.setFlag k b).hostIn = s.hostIn := by cases k <;> rfl
@[simp] theorem State.setFlag_txBuf (k : EventKind) (b : Bool) (s : State) : (s.setFlag k b).txBuf = s.txBuf := by cases k <;> rfl
@[simp] theorem State.setFlag_cfgIn (k : EventKind) (b : Bool) (s : State) : (s.setFlag k b).cfgIn = s.cfgIn := by cases k <;> rfl
@[simp] theorem State.setFlag_rxBuf (k : EventKind) (b : Bool) (s : State) : (s.setFlag k b).rxBuf = s.rxBuf := by cases k <;> rfl
@[simp] theorem State.setFlag_result (k : EventKind) (b : Bool) (s : State) : (s.setFlag k b).result = s.result := by cases k <;> rfl
@[simp] theorem State.setFlag_declined (k : EventKind) (b : Bool) (s : State) : (s.setFlag k b).declined = s.declined := by cases k <;> rfl
@[simp] theorem State.setFlag_busReq (k : EventKind) (b : Bool) (s : State) : (s.setFlag k b).busReq = s.busReq := by cases k <;> rfl
@[simp] theorem State.setFlag_kept (k : EventKind) (b : Bool) (s : State) : (s.setFlag k b).kept = s.kept := by cases k <;> rfl
@[simp] theorem State.setFlag_trace (k : EventKind) (b : Bool) (s : State) : (s.setFlag k b).trace = s.trace := by cases k <;> rfl
@[simp] theorem State.setFlag_replies (k : EventKind) (b : Bool) (s : State) : (s.setFlag k b).replies = s.replies := by cases k <;> rfl
@[simp] theorem State.setFlag_replyTick (k : EventKind) (b : Bool) (s : State) : (s.setFlag k b).replyTick = s.replyTick := by cases k <;> rfl
@[simp] theorem State.setFlag_irqIn (k : EventKind) (b : Bool) (s : State) : (s.setFlag k b).irqIn = s.irqIn := by cases k <;> rfl
@[simp] theorem State.setFlag_irqTick (k : EventKind) (b : Bool) (s : State) : (s.setFlag k b).irqTick = s.irqTick := by cases k <;> rfl
@[simp] theorem State.setFlag_evTx (k : EventKind) (b : Bool) (s : State) :
    (s.setFlag k b).evTx = if k = .txDone then b else s.evTx := by cases k <;> rfl
@[simp] theorem State.setFlag_evRx (k : EventKind) (b : Bool) (s : State) :
    (s.setFlag k b).evRx = if k = .rxDone then b else s.evRx := by cases k <;> rfl
@[simp] theorem State.setFlag_evCrc (k : EventKind) (b : Bool) (s : State) :
    (s.setFlag k b).evCrc = if k = .crcError then b else s.evCrc := by cases k <;> rfl
@[simp] theorem State.flag_setFlag (j k : EventKind) (b : Bool) (s : State) :
    (s.setFlag k b).flag j = if j = k then b else s.flag j := by cases j <;> cases k <;> rfl

/-! ### withBus -/

/-- The state with other values in the four fields a transaction can change. -/
def State.withBus (cs : Bool) (trace : List Event) (replies : List (Option Byte)) (tick : Nat) (s : State) : State :=
  { s with cs := cs, trace := trace, replies := replies, replyTick := tick }

@[simp] theorem State.withBus_mode (c : Bool) (tr : List Event) (rs : List (Option Byte)) (n : Nat) (s : State) :
    (s.withBus c tr rs n).mode = s.mode := rfl
@[simp] theorem State.withBus_resetDone (c : Bool) (tr : List Event) (rs : List (Option Byte)) (n : Nat) (s : State) :
    (s.withBus c tr rs n).resetDone = s.resetDone := rfl
@[simp] theorem State.withBus_initOk (c : Bool) (tr : List Event) (rs : List (Option Byte)) (n : Nat) (s : State) :
    (s.withBus c tr rs n).initOk = s.initOk := rfl
@[simp] theorem State.withBus_cfg (c : Bool) (tr : List Event) (rs : List (Option Byte)) (n : Nat) (s : State) :
    (s.withBus c tr rs n).cfg = s.cfg := rfl
@[simp] theorem State.withBus_evTx (c : Bool) (tr : List Event) (rs : List (Option Byte)) (n : Nat) (s : State) :
    (s.withBus c tr rs n).evTx = s.evTx := rfl
@[simp] theorem State.withBus_evRx (c : Bool) (tr : List Event) (rs : List (Option Byte)) (n : Nat) (s : State) :
    (s.withBus c tr rs n).evRx = s.evRx := rfl
@[simp] theorem State.withBus_evCrc (c : Bool) (tr : List Event) (rs : List (Option Byte)) (n : Nat) (s : State) :
    (s.withBus c tr rs n).evCrc = s.evCrc := rfl
@[simp] theorem State.withBus_irqPrev (c : Bool) (tr : List Event) (rs : List (Option Byte)) (n : Nat) (s : State) :
    (s.withBus c tr rs n).irqPrev = s.irqPrev := rfl
@[simp] theorem State.withBus_irqPend (c : Bool) (tr : List Event) (rs : List (Option Byte)) (n : Nat) (s : State) :
    (s.withBus c tr rs n).irqPend = s.irqPend := rfl
@[simp] theorem State.withBus_irqMask (c : Bool) (tr : List Event) (rs : List (Option Byte)) (n : Nat) (s : State) :
    (s.withBus c tr rs n).irqMask = s.irqMask := rfl
@[simp] theorem State.withBus_inService (c : Bool) (tr : List Event) (rs : List (Option Byte)) (n : Nat) (s : State) :
    (s.withBus c tr rs n).inService = s.inService := rfl
@[simp] theorem State.withBus_seq (c : Bool) (tr : List Event) (rs : List (Option Byte)) (n : Nat) (s : State) :
    (s.withBus c tr rs n).seq = s.seq := rfl
@[simp] theorem State.withBus_cs (c : Bool) (tr : List Event) (rs : List (Option Byte)) (n : Nat) (s : State) :
    (s.withBus c tr rs n).cs = c := rfl
@[simp] theorem State.withBus_nreset (c : Bool) (tr : List Event) (rs : List (Option Byte)) (n : Nat) (s : State) :
    (s.withBus c tr rs n).nreset = s.nreset := rfl
@[simp] theorem State.withBus_recvLen (c : Bool) (tr : List Event) (rs : List (Option Byte)) (n : Nat) (s : State) :
    (s.withBus c tr rs n).recvLen = s.recvLen := rfl
@[simp] theorem State.withBus_recvPtr (c : Bool) (tr : List Event) (rs : List (Option Byte)) (n : Nat) (s : State) :
    (s.withBus c tr rs n).recvPtr = s.recvPtr := rfl
@[simp] theorem State.withBus_maskOld (c : Bool) (tr : List Event) (rs : List (Option Byte)) (n : Nat) (s : State) :
    (s.withBus c tr rs n).maskOld = s.maskOld := rfl
@[simp] theorem State.withBus_svcFlags (c : Bool) (tr : List Event) (rs : List (Option Byte)) (n : Nat) (s : State) :
    (s.withBus c tr rs n).svcFlags = s.svcFlags := rfl
@[simp] theorem State.withBus_hostIn (c : Bool) (tr : List Event) (rs : List (Option Byte)) (n : Nat) (s : State) :
    (s.withBus c tr rs n).hostIn = s.hostIn := rfl
@[simp] theorem State.withBus_txBuf (c : Bool) (tr : List Event) (rs : List (Option Byte)) (n : Nat) (s : State) :
    (s.withBus c tr rs n).txBuf = s.txBuf := rfl
@[simp] theorem State.withBus_cfgIn (c : Bool) (tr : List Event) (rs : List (Option Byte)) (n : Nat) (s : State) :
    (s.withBus c tr rs n).cfgIn = s.cfgIn := rfl
@[simp] theorem State.withBus_rxBuf (c : Bool) (tr : List Event) (rs : List (Option Byte)) (n : Nat) (s : State) :
    (s.withBus c tr rs n).rxBuf = s.rxBuf := rfl
@[simp] theorem State.withBus_result (c : Bool) (tr : List Event) (rs : List (Option Byte)) (n : Nat) (s : State) :
    (s.withBus c tr rs n).result = s.result := rfl
@[simp] theorem State.withBus_declined (c : Bool) (tr : List Event) (rs : List (Option Byte)) (n : Nat) (s : State) :
    (s.withBus c tr rs n).declined = s.declined := rfl
@[simp] theorem State.withBus_busReq (c : Bool) (tr : List Event) (rs : List (Option Byte)) (n : Nat) (s : State) :
    (s.withBus c tr rs n).busReq = s.busReq := rfl
@[simp] theorem State.withBus_kept (c : Bool) (tr : List Event) (rs : List (Option Byte)) (n : Nat) (s : State) :
    (s.withBus c tr rs n).kept = s.kept := rfl
@[simp] theorem State.withBus_trace (c : Bool) (tr : List Event) (rs : List (Option Byte)) (n : Nat) (s : State) :
    (s.withBus c tr rs n).trace = tr := rfl
@[simp] theorem State.withBus_replies (c : Bool) (tr : List Event) (rs : List (Option Byte)) (n : Nat) (s : State) :
    (s.withBus c tr rs n).replies = rs := rfl
@[simp] theorem State.withBus_replyTick (c : Bool) (tr : List Event) (rs : List (Option Byte)) (n : Nat) (s : State) :
    (s.withBus c tr rs n).replyTick = n := rfl
@[simp] theorem State.withBus_irqIn (c : Bool) (tr : List Event) (rs : List (Option Byte)) (n : Nat) (s : State) :
    (s.withBus c tr rs n).irqIn = s.irqIn := rfl
@[simp] theorem State.withBus_irqTick (c : Bool) (tr : List Event) (rs : List (Option Byte)) (n : Nat) (s : State) :
    (s.withBus c tr rs n).irqTick = s.irqTick := rfl
@[simp] theorem State.withBus_withBus (c c' : Bool) (tr tr' : List Event) (rs rs' : List (Option Byte)) (n n' : Nat)
    (s : State) : (s.withBus c tr rs n).withBus c' tr' rs' n' = s.withBus c' tr' rs' n' := rfl

theorem State.emit_eq_withBus (e : Event) (s : State) :
    s.emit e = s.withBus s.cs (s.trace ++ [e]) s.replies s.replyTick := rfl

theorem State.sel_eq_withBus (s : State) : s.sel = s.withBus true (s.trace ++ [.sel]) s.replies s.replyTick := rfl

theorem State.desel_eq_withBus (s : State) : s.desel = s.withBus false (s.trace ++ [.desel]) s.replies s.replyTick := rfl

theorem State.dropReply_eq_withBus (s : State) :
    s.dropReply = s.withBus s.cs s.trace s.dropReply.replies s.dropReply.replyTick := by
  unfold State.dropReply; split <;> rfl

end Sys2Proof.Machine
end

