-- ==== Sys2Proof/Laws/Bus.lean ====
section
/-! SUPPORT. The bus service, said once: what a transaction does when the radio answers every transfer, what it can
change at all, and what is left when a transfer never completes. -/

namespace Sys2Proof.Machine

/-! ### The phase of the bus -/

@[simp] theorem busPhase_concat (tr : List Event) (e : Event) : busPhase (tr ++ [e]) = phaseAfter (busPhase tr) e := by
  simp [busPhase]

/-- A byte moved in an open bracket leaves it open, with bytes moving. -/
theorem phaseAfter_xfer {ph : BusPhase} (h : ph ≠ .idle) (o i : Byte) :
    phaseAfter (some ph) (.xfer o i) = some .moving := by
  cases ph
  · exact absurd rfl h
  · rfl
  · rfl

/-! ### Answers -/

@[simp] theorem State.answers_cons {s : State} {b : Byte} {bs : List Byte} :
    s.answers (b :: bs) ↔ ∃ rest, s.replies = some b :: rest ∧ bs.map some <+: rest := by
  unfold State.answers
  cases h : s.replies with
  | nil => simp
  | cons r rest =>
    simp only [List.map_cons, List.cons_prefix_cons, List.cons.injEq]
    constructor
    · rintro ⟨h₁, h₂⟩; exact ⟨rest, ⟨h₁.symm, rfl⟩, h₂⟩
    · rintro ⟨_, ⟨rfl, rfl⟩, h₂⟩; exact ⟨rfl, h₂⟩

theorem State.nextReply_of_answers {s : State} {b : Byte} {bs : List Byte} (h : s.answers (b :: bs)) :
    s.nextReply = some b := by
  obtain ⟨rest, hr, -⟩ := State.answers_cons.mp h
  simp [State.nextReply, hr]

theorem State.dropReply_of_answers {s : State} {b : Byte} {bs : List Byte} (h : s.answers (b :: bs)) :
    s.dropReply = { s with replies := s.replies.drop 1 } ∧ s.dropReply.answers bs := by
  obtain ⟨rest, hr, hp⟩ := State.answers_cons.mp h
  constructor
  · simp [State.dropReply, hr]
  · simpa [State.answers, hr] using hp

/-! ### Runs of transfers -/

/-- Every transfer answered: the bytes returned in order, one event each, the answers used up. -/
theorem xferAll_answered (outs ins : List Byte) (s : State) (hlen : ins.length = outs.length) (h : s.answers ins) :
    xferAll outs s =
      ⟨ins, true, { s with trace := s.trace ++ List.zipWith Event.xfer outs ins, replies := s.replies.drop outs.length }⟩ := by
  induction outs generalizing ins s with
  | nil =>
    cases ins with
    | nil => simp [xferAll]
    | cons _ _ => simp at hlen
  | cons b bs ih =>
    cases ins with
    | nil => simp at hlen
    | cons r rs =>
      obtain ⟨hd, ha⟩ := State.dropReply_of_answers h
      have ha' : (s.dropReply.emit (.xfer b r)).answers rs := ha
      simp only [xferAll, State.nextReply_of_answers h, ih rs _ (by simpa using hlen) ha']
      simp [hd, State.emit, List.append_assoc, Nat.add_comm]

/-- The answers run out at a transfer that never completes: the bytes returned so far, one event each. -/
theorem xferAll_dies (outs got : List Byte) (s : State) (hlen : got.length < outs.length) (h : s.dies got) :
    xferAll outs s =
      ⟨got, false,
        { s with trace := s.trace ++ List.zipWith Event.xfer outs got, replies := s.replies.drop (got.length + 1) }⟩ := by
  induction outs generalizing got s with
  | nil => simp at hlen
  | cons b bs ih =>
    obtain ⟨rest, hr⟩ := h
    cases got with
    | nil => simp [xferAll, State.nextReply, State.dropReply, ← hr]
    | cons r rs =>
      have hd : s.dropReply = { s with replies := rs.map some ++ [none] ++ rest } := by
        simp [State.dropReply, ← hr]
      have hn : s.nextReply = some r := by simp [State.nextReply, ← hr]
      have ha : (s.dropReply.emit (.xfer b r)).dies rs := ⟨rest, by rw [hd]; rfl⟩
      simp only [xferAll, hn, ih rs _ (by simpa using hlen) ha]
      simp [hd, State.emit, ← hr]

/-- A run of transfers changes the trace and the answers to come, nothing else. -/
theorem xferAll_frame (outs : List Byte) (s : State) :
    ∃ tr rs n, (xferAll outs s).st = s.withBus s.cs tr rs n := by
  induction outs generalizing s with
  | nil => exact ⟨s.trace, s.replies, s.replyTick, rfl⟩
  | cons b bs ih =>
    simp only [xferAll]
    split
    · exact ⟨_, _, _, State.dropReply_eq_withBus s⟩
    · next r _ =>
      obtain ⟨tr, rs, n, h⟩ := ih (s.dropReply.emit (.xfer b r))
      refine ⟨tr, rs, n, ?_⟩
      rw [h, State.emit_eq_withBus, State.dropReply_eq_withBus]
      simp

/-- As many bytes come back as were sent, when every transfer completed. -/
theorem xferAll_length (outs : List Byte) (s : State) (h : (xferAll outs s).done = true) :
    (xferAll outs s).got.length = outs.length := by
  induction outs generalizing s with
  | nil => simp [xferAll]
  | cons b bs ih =>
    simp only [xferAll] at h ⊢
    split
    · next hn => simp [hn] at h
    · next r hr => simp only [hr] at h; simp [ih _ h]

/-- Never more bytes come back than were sent. -/
theorem xferAll_length_le (outs : List Byte) (s : State) : (xferAll outs s).got.length ≤ outs.length := by
  induction outs generalizing s with
  | nil => simp [xferAll]
  | cons b bs ih =>
    simp only [xferAll]
    split
    · simp
    · simpa using ih _

/-- The transfers of an open bracket keep it open. -/
theorem xferAll_phase (outs : List Byte) (s : State) (ph : BusPhase) (hs : busPhase s.trace = some ph)
    (hph : ph ≠ .idle) :
    ∃ ph', busPhase (xferAll outs s).st.trace = some ph' ∧ ph' ≠ .idle ∧
      ((xferAll outs s).done = true → outs ≠ [] → ph' = .moving) := by
  induction outs generalizing s ph with
  | nil => exact ⟨ph, hs, hph, by simp⟩
  | cons b bs ih =>
    simp only [xferAll]
    split
    · exact ⟨ph, by simpa using hs, hph, by simp⟩
    · next r hr =>
      have hm : busPhase (s.dropReply.emit (.xfer b r)).trace = some .moving := by
        rw [State.emit_trace, busPhase_concat, State.dropReply_trace, hs, phaseAfter_xfer hph]
      obtain ⟨ph', h₁, h₂, h₃⟩ := ih _ _ hm (by simp)
      refine ⟨ph', h₁, h₂, fun hd _ => ?_⟩
      by_cases hb : bs = []
      · subst hb
        exact Option.some.inj (h₁.symm.trans hm)
      · exact h₃ hd hb

/-! ### Transactions -/

/-- Every transfer answered: one complete bracket, `cs` = 0, the reply to the header dropped. -/
theorem transaction_answered (header : Byte) (outs : List Byte) (r : Byte) (ins : List Byte) (s : State)
    (hlen : ins.length = outs.length) (h : s.answers (r :: ins)) :
    transaction header outs s = ⟨ins, true, s.afterTransaction (header :: outs) (r :: ins)⟩ := by
  have h' : s.sel.answers (r :: ins) := h
  simp only [transaction, xferAll_answered (header :: outs) (r :: ins) s.sel (by simp [hlen]) h']
  simp [State.afterTransaction, bracketEvents, State.sel, State.desel, State.emit]

/-- A transaction whose transfer never completes: the bracket stays open, `cs` = 1. -/
theorem transaction_dies (header : Byte) (outs got : List Byte) (s : State) (hlen : got.length < outs.length + 1)
    (h : s.dies got) : transaction header outs s = ⟨got.drop 1, false, s.stuckIn (header :: outs) got⟩ := by
  have h' : s.sel.dies got := h
  simp only [transaction, xferAll_dies (header :: outs) got s.sel (by simpa using hlen) h']
  simp [State.stuckIn, State.sel, State.emit]

/-- A transaction changes `cs`, the trace and the answers to come, nothing else; `cs` is 0 after it exactly when every
transfer completed. -/
theorem transaction_frame (header : Byte) (outs : List Byte) (s : State) :
    ∃ tr rs n, (transaction header outs s).st = s.withBus (!(transaction header outs s).done) tr rs n := by
  obtain ⟨tr, rs, n, h⟩ := xferAll_frame (header :: outs) s.sel
  simp only [transaction]
  cases hd : (xferAll (header :: outs) s.sel).done
  · refine ⟨tr, rs, n, ?_⟩
    rw [if_neg (by simp), h, State.sel_eq_withBus]; rfl
  · refine ⟨tr ++ [.desel], rs, n, ?_⟩
    rw [if_pos rfl, State.desel_eq_withBus, h, State.sel_eq_withBus]; rfl

/-- `cs` is 0 after a transaction exactly when every transfer completed. -/
theorem transaction_cs (header : Byte) (outs : List Byte) (s : State) :
    (transaction header outs s).st.cs = !(transaction header outs s).done := by
  obtain ⟨tr, rs, n, h⟩ := transaction_frame header outs s
  rw [h, State.withBus_cs]

/-- A completed transaction returns one byte for each byte after the header. -/
theorem transaction_length (header : Byte) (outs : List Byte) (s : State)
    (h : (transaction header outs s).done = true) : (transaction header outs s).got.length = outs.length := by
  simp only [transaction] at h ⊢
  simp [xferAll_length _ _ h]

/-- No transaction returns more bytes than it sends after the header. -/
theorem transaction_length_le (header : Byte) (outs : List Byte) (s : State) :
    (transaction header outs s).got.length ≤ outs.length := by
  have := xferAll_length_le (header :: outs) s.sel
  simp only [transaction, List.length_drop]
  simp only [List.length_cons] at this
  omega

/-- From an idle bus a transaction keeps the chip-select discipline. -/
theorem transaction_bracket (header : Byte) (outs : List Byte) (s : State) (hs : busPhase s.trace = some .idle) :
    (busPhase (transaction header outs s).st.trace).map (· != .idle) = some (transaction header outs s).st.cs := by
  have hsel : busPhase s.sel.trace = some .selected := by
    rw [State.sel_trace, busPhase_concat, hs]; rfl
  obtain ⟨ph, h₁, h₂, h₃⟩ := xferAll_phase (header :: outs) s.sel .selected hsel (by simp)
  rw [transaction_cs]
  simp only [transaction]
  split
  · next hd =>
    have := h₃ hd (by simp)
    subst this
    rw [State.desel_trace, busPhase_concat, h₁, hd]; rfl
  · next hd =>
    rw [h₁, Bool.not_eq_true] at *
    rw [hd]
    cases ph
    · exact absurd rfl h₂
    · rfl
    · rfl

/-- A transaction only adds to the trace. -/
theorem xferAll_trace (outs : List Byte) (s : State) : s.trace <+: (xferAll outs s).st.trace := by
  induction outs generalizing s with
  | nil => simp [xferAll]
  | cons b bs ih =>
    simp only [xferAll]
    split
    · simp
    · exact (by simp : s.trace <+: (s.dropReply.emit (.xfer b _)).trace).trans (ih _)

/-! ### One lemma for going on -/

/-- Going on after a transaction: either it completed and `k` runs on its bytes, or the context stays where the
transfer stuck, with `cs` = 1. -/
theorem andThen_cases (header : Byte) (outs : List Byte) (s : State) (k : List Byte → State → State) :
    ((transaction header outs s).done = true ∧ (transaction header outs s).st.cs = false ∧
        (transaction header outs s).andThen k = k (transaction header outs s).got (transaction header outs s).st) ∨
      ((transaction header outs s).done = false ∧ (transaction header outs s).st.cs = true ∧
        (transaction header outs s).andThen k = (transaction header outs s).st) := by
  have hcs := transaction_cs header outs s
  cases hd : (transaction header outs s).done <;> simp_all [BusRun.andThen]

/-- Nothing goes on after a write whose transfer never completes (40_register_interface R145). -/
theorem memWrite_dies (a : Addr) (vs got : List Byte) (s : State) (hlen : got.length < vs.length + 1) (h : s.dies got)
    (k : List Byte → State → State) : (memWrite a vs s).andThen k = s.stuckIn (writeHeader a :: vs) got := by
  simp [memWrite, transaction_dies _ _ _ _ hlen h, BusRun.andThen]

/-- Nothing goes on after a read whose transfer never completes (40_register_interface R145). -/
theorem memRead_dies (a : Addr) (n : Nat) (got : List Byte) (s : State) (hlen : got.length < n + 1) (h : s.dies got)
    (k : List Byte → State → State) :
    (memRead a n s).andThen k = s.stuckIn (readHeader a :: List.replicate n Config.dummy) got := by
  have := transaction_dies (readHeader a) (List.replicate n Config.dummy) got s (by simpa using hlen) h
  simp [memRead, this, BusRun.andThen]

/-- Going on after a write the radio answers (00_scope R7, `MemWrite`). -/
theorem memWrite_answered (a : Addr) (vs : List Byte) (r : Byte) (ins : List Byte) (s : State)
    (hlen : ins.length = vs.length) (h : s.answers (r :: ins)) (k : List Byte → State → State) :
    (memWrite a vs s).andThen k = k ins (s.afterTransaction (writeHeader a :: vs) (r :: ins)) := by
  simp [memWrite, transaction_answered _ _ _ _ _ hlen h, BusRun.andThen]

/-- Going on after a read the radio answers (00_scope R7, `MemRead`). -/
theorem memRead_answered (a : Addr) (n : Nat) (r : Byte) (ins : List Byte) (s : State)
    (hlen : ins.length = n) (h : s.answers (r :: ins)) (k : List Byte → State → State) :
    (memRead a n s).andThen k =
      k ins (s.afterTransaction (readHeader a :: List.replicate n Config.dummy) (r :: ins)) := by
  have := transaction_answered (readHeader a) (List.replicate n Config.dummy) r ins s (by simp [hlen]) h
  simp [memRead, this, BusRun.andThen]

end Sys2Proof.Machine
end

