-- ==== Sys2Proof/Laws/Command.lean ====
section
/-! SUPPORT. The sequencer's shared operation, said once: an offer taken, an offer turned away, a step of the running
command, and the cases where nothing of the main context moves. -/

namespace Sys2Proof.Machine

/-- An admitted offer is taken and its first step done. -/
theorem runCommand_offer {i : Instr} {first : Nat} {gate : State → Option Decline} {body : Nat → State → State}
    {s : State} (h : s.ready) (ha : gate s = none) :
    runCommand i first gate body s = body first (s.accept i first) := by
  simp [runCommand, h.1, h.2.1, h.2.2, ha]

/-- An offer that is not admitted is turned away. -/
theorem runCommand_declined {i : Instr} {first : Nat} {gate : State → Option Decline} {body : Nat → State → State}
    {s : State} {d : Decline} (h : s.ready) (ha : gate s = some d) :
    runCommand i first gate body s = s.decline d := by
  simp [runCommand, h.1, h.2.1, h.2.2, ha]

/-- The running command does its next step. -/
theorem runCommand_resume {i : Instr} {first k : Nat} {gate : State → Option Decline} {body : Nat → State → State}
    {s : State} (h : s.atStep i k) : runCommand i first gate body s = body k s := by
  simp [runCommand, h.1, h.2.1, h.2.2]

/-- While a transfer never completes, or a service runs, nothing of the main context moves. -/
theorem runCommand_held {i : Instr} {first : Nat} {gate : State → Option Decline} {body : Nat → State → State}
    {s : State} (h : s.cs = true ∨ s.inService = true) : runCommand i first gate body s = s := by
  rcases h with h | h <;> simp [runCommand, h]

/-- While another command runs an offer is not accepted. -/
theorem runCommand_other {i : Instr} {first : Nat} {gate : State → Option Decline} {body : Nat → State → State}
    {s : State} {p : SeqPos} (h : s.seq = some p) (hp : p.cmd ≠ i) : runCommand i first gate body s = s := by
  by_cases hc : s.cs = true
  · exact runCommand_held (.inl hc)
  · by_cases hi : s.inService = true
    · exact runCommand_held (.inr hi)
    · simp_all [runCommand]

/-- Everything a sequencer step of a command can be. -/
theorem runCommand_cases (i : Instr) (first : Nat) (gate : State → Option Decline) (body : Nat → State → State)
    (s : State) :
    runCommand i first gate body s = s ∨
      (s.ready ∧ ∃ d, gate s = some d ∧ runCommand i first gate body s = s.decline d) ∨
      (s.ready ∧ gate s = none ∧ runCommand i first gate body s = body first (s.accept i first)) ∨
      (∃ k, s.atStep i k ∧ runCommand i first gate body s = body k s) := by
  by_cases hc : s.cs = true
  · exact .inl (runCommand_held (.inl hc))
  · by_cases hi : s.inService = true
    · exact .inl (runCommand_held (.inr hi))
    · rw [Bool.not_eq_true] at hc hi
      cases hs : s.seq with
      | none =>
        cases ha : gate s with
        | none => exact .inr (.inr (.inl ⟨⟨hc, hi, hs⟩, rfl, runCommand_offer ⟨hc, hi, hs⟩ ha⟩))
        | some d => exact .inr (.inl ⟨⟨hc, hi, hs⟩, d, rfl, runCommand_declined ⟨hc, hi, hs⟩ ha⟩)
      | some p =>
        by_cases hp : p.cmd = i
        · refine .inr (.inr (.inr ⟨p.step, ⟨hc, hi, ?_⟩, runCommand_resume ⟨hc, hi, ?_⟩⟩)) <;>
            (subst hp; exact hs)
        · exact .inl (runCommand_other hs hp)

/-- A mode write the radio answers: the owned mode changes after the write (41_mode_fsm R161). -/
theorem setModeThen_answered (m : RadioMode) (k : State → State) (s : State) (r₀ r₁ : Byte)
    (h : s.answers [r₀, r₁]) :
    setModeThen m k s = k { s.afterTransaction [0x81, modeByte m] [r₀, r₁] with mode := modeOf m } :=
  memWrite_answered RadioReg.mode.addr [modeByte m] r₀ [r₁] s rfl h _

/-- A mode write that never completes: the owned mode stays (41_mode_fsm R161). -/
theorem setModeThen_dies (m : RadioMode) (k : State → State) (s : State) (got : List Byte) (hlen : got.length < 2)
    (h : s.dies got) : setModeThen m k s = s.stuckIn [0x81, modeByte m] got :=
  memWrite_dies RadioReg.mode.addr [modeByte m] got s hlen h _

end Sys2Proof.Machine
end

