-- ==== Sys2Proof/Laws/Memory.lean ====
section
/-! SUPPORT. The receive buffer: what a write reads back as, and that every operation keeps the canonical form. -/

namespace Sys2Proof.Machine

@[simp] theorem Memory.read_nil (a : Nat) : Memory.read [] a = none := rfl

@[simp] theorem Memory.writeRun_nil (m : Memory) (a : Nat) : Memory.writeRun m a [] = m := by cases m <;> rfl

@[simp] theorem Memory.writeRun_cons (m : Memory) (a : Nat) (b : Byte) (bs : List Byte) :
    Memory.writeRun m a (b :: bs) = Memory.writeRun (Memory.write m a b) (a + 1) bs := by cases m <;> rfl

/-- A write leaves every other index alone and its own index at the byte written. -/
theorem Memory.read_write (m : Memory) (a : Nat) (b : Byte) (x : Nat) :
    Memory.read (Memory.write m a b) x = if x = a then some b else Memory.read m x := by
  induction m with
  | nil =>
    by_cases h : x = a
    · simp [Memory.write, Memory.read, h]
    · simp [Memory.write, Memory.read, h, Ne.symm h]
  | cons c m ih =>
    obtain ⟨k, v⟩ := c
    simp only [Memory.write]
    by_cases h₁ : a < k
    · simp only [h₁, if_true, Memory.read, eq_comm]
    · by_cases h₂ : a = k
      · subst h₂
        by_cases h₃ : a = x <;> simp [Memory.read, h₃, eq_comm]
      · simp only [h₁, h₂, if_false, Memory.read, ih]
        by_cases h₃ : k = x
        · subst h₃; simp [Ne.symm h₂]
        · simp [h₃]

/-- A run written from `a` reads back byte by byte, and nothing outside it changes. -/
theorem Memory.read_writeRun (m : Memory) (a : Nat) (bs : List Byte) (x : Nat) :
    Memory.read (Memory.writeRun m a bs) x =
      if a ≤ x ∧ x < a + bs.length then bs[x - a]? else Memory.read m x := by
  induction bs generalizing m a with
  | nil =>
    rw [Memory.writeRun_nil, if_neg]
    simp only [List.length_nil]; omega
  | cons b bs ih =>
    rw [Memory.writeRun_cons, ih, Memory.read_write]
    by_cases hx : x = a
    · subst hx; simp
    · by_cases h : a + 1 ≤ x ∧ x < a + 1 + bs.length
      · have h' : a ≤ x ∧ x < a + (b :: bs).length := by simp only [List.length_cons]; omega
        have hs : x - a = (x - (a + 1)) + 1 := by omega
        rw [if_pos h, if_pos h', hs, List.getElem?_cons_succ]
      · have h' : ¬ (a ≤ x ∧ x < a + (b :: bs).length) := by simp only [List.length_cons]; omega
        rw [if_neg h, if_neg h', if_neg hx]

/-- A memory above a bound is above every lower bound. -/
theorem Memory.risesAbove_mono {lo lo' : Nat} (h : lo ≤ lo') (m : Memory) (hm : Memory.risesAbove lo' m = true) :
    Memory.risesAbove lo m = true := by
  cases m with
  | nil => rfl
  | cons c m =>
    simp only [Memory.risesAbove, Bool.and_eq_true, decide_eq_true_eq] at hm ⊢
    exact ⟨by omega, hm.2⟩

/-- A write above a bound keeps the memory above it. -/
theorem Memory.risesAbove_write (m : Memory) (lo a : Nat) (b : Byte) (ha : lo < a)
    (hm : Memory.risesAbove lo m = true) : Memory.risesAbove lo (Memory.write m a b) = true := by
  induction m generalizing lo with
  | nil => simp [Memory.write, Memory.risesAbove, ha]
  | cons c m ih =>
    obtain ⟨k, v⟩ := c
    simp only [Memory.risesAbove, Bool.and_eq_true, decide_eq_true_eq] at hm
    simp only [Memory.write]
    split
    · next h => simp [Memory.risesAbove, ha, h, hm.2]
    · split
      · next h => subst h; simp [Memory.risesAbove, ha, hm.2]
      · next h₁ h₂ =>
        simp only [Memory.risesAbove, Bool.and_eq_true, decide_eq_true_eq]
        exact ⟨hm.1, ih k (by omega) hm.2⟩

/-- A write keeps the canonical form. -/
theorem Memory.wf_write (m : Memory) (a : Nat) (b : Byte) (hm : Memory.wf m = true) :
    Memory.wf (Memory.write m a b) = true := by
  cases m with
  | nil => rfl
  | cons c m =>
    obtain ⟨k, v⟩ := c
    simp only [Memory.wf] at hm
    simp only [Memory.write]
    split
    · next h => simp [Memory.wf, Memory.risesAbove, h, hm]
    · split
      · next h => subst h; simpa [Memory.wf] using hm
      · next h₁ h₂ => exact Memory.risesAbove_write m k a b (by omega) hm

/-- A run of writes keeps the canonical form. -/
theorem Memory.wf_writeRun (m : Memory) (a : Nat) (bs : List Byte) (hm : Memory.wf m = true) :
    Memory.wf (Memory.writeRun m a bs) = true := by
  induction bs generalizing m a with
  | nil => simpa using hm
  | cons b bs ih => simpa using ih _ _ (Memory.wf_write m a b hm)

end Sys2Proof.Machine
end

