-- ==== Sys2Proof/Laws/Operations.lean ====
section
/-! SUPPORT. The remaining shared operations, said once: the mode write, the burst into the host's buffer, a placed frame,
the conditions of the service, what an event does. -/

namespace Sys2Proof.Machine

/-- A mode write completes and the owned mode follows, or it sticks and the state is the stuck transaction's. -/
theorem setModeThen_cases (m : RadioMode) (k : State → State) (s : State) :
    (∃ t : State, setModeThen m k s = k { t with mode := modeOf m } ∧ t.cs = false ∧
        t = (memWrite RadioReg.mode.addr [modeByte m] s).st) ∨
      (setModeThen m k s = (memWrite RadioReg.mode.addr [modeByte m] s).st ∧
        (memWrite RadioReg.mode.addr [modeByte m] s).st.cs = true) := by
  rcases andThen_cases (writeHeader RadioReg.mode.addr) [modeByte m] s fun _ t => k { t with mode := modeOf m } with
    ⟨_, hc, h⟩ | ⟨_, hc, h⟩
  · exact .inl ⟨_, h, hc, rfl⟩
  · exact .inr ⟨h, hc⟩

/-- A burst read touches the bus and the first `n` indices of the receive buffer, and keeps its canonical form. -/
theorem burstToHost_buffer (n : Nat) (s : State) :
    (∀ x, n ≤ x → Memory.read (burstToHost n s).st.rxBuf x = Memory.read s.rxBuf x) ∧
      (Memory.wf s.rxBuf = true → Memory.wf (burstToHost n s).st.rxBuf = true) := by
  obtain ⟨tr, rs, k, h⟩ := transaction_frame (readHeader RadioReg.fifo.addr) (List.replicate n Config.dummy) s
  have hbuf : (burstToHost n s).st.rxBuf = Memory.writeRun s.rxBuf 0 (memRead RadioReg.fifo.addr n s).got := by
    simp only [burstToHost, memRead, h]; rfl
  have hlen : (memRead RadioReg.fifo.addr n s).got.length ≤ n := by
    have := transaction_length_le (readHeader RadioReg.fifo.addr) (List.replicate n Config.dummy) s
    rwa [List.length_replicate] at this
  rw [hbuf]
  refine ⟨fun x hx => ?_, Memory.wf_writeRun _ _ _⟩
  rw [Memory.read_writeRun, if_neg (by omega)]

/-- A burst read the radio answers. -/
theorem burstToHost_answered (n : Nat) (r : Byte) (ins : List Byte) (s : State) (hlen : ins.length = n)
    (h : s.answers (r :: ins)) :
    burstToHost n s =
      ⟨ins, true, { s.afterTransaction (readHeader RadioReg.fifo.addr :: List.replicate n Config.dummy) (r :: ins) with
        rxBuf := Memory.writeRun s.rxBuf 0 ins }⟩ := by
  have := transaction_answered (readHeader RadioReg.fifo.addr) (List.replicate n Config.dummy) r ins s (by simp [hlen]) h
  simp only [burstToHost, memRead, this]
  rfl

/-- A burst read whose transfer never completes leaves the bytes that came in the buffer (log entry 7). -/
theorem burstToHost_dies (n : Nat) (got : List Byte) (s : State) (hlen : got.length < n + 1) (h : s.dies got) :
    burstToHost n s =
      ⟨got.drop 1, false, { s.stuckIn (readHeader RadioReg.fifo.addr :: List.replicate n Config.dummy) got with
        rxBuf := Memory.writeRun s.rxBuf 0 (got.drop 1) }⟩ := by
  have := transaction_dies (readHeader RadioReg.fifo.addr) (List.replicate n Config.dummy) got s (by simpa using hlen) h
  simp only [burstToHost, memRead, this]
  rfl

/-- While a transfer never completes a placed frame is not performed. -/
theorem performFrame_stuck {reads : Bool} {run : State → BusRun} {s : State} (h : s.cs = true) :
    performFrame reads run s = s := by
  simp [performFrame, h]

/-- On a free bus a placed frame is its transaction, with the kept bytes. -/
theorem performFrame_free {reads : Bool} {run : State → BusRun} {s : State} (h : s.cs = false) :
    performFrame reads run s = { (run s).st with kept := if reads then (run s).got else [] } := by
  simp [performFrame, h]

/-- The conditions of 43_event_decoder R201, one by one. -/
theorem serviceMayStart_iff (s : State) :
    s.serviceMayStart = true ↔
      s.resetDone = true ∧ s.cs = false ∧ s.inService = false ∧ s.irqMask = false ∧ s.irqPend = true ∧
        seqAllowsService s.seq = true := by
  simp [State.serviceMayStart]

/-- An event sets at most its own flag, moves the mode by the automatic edge only, and adds at most one diagnostic
(43_event_decoder R205). -/
theorem applyEvent_eq (e : IrqEvent) (s : State) :
    applyEvent e s =
      { s with
        evTx := s.evTx || e == .transmitDone
        evRx := s.evRx || e == .receiveDone
        evCrc := s.evCrc || e == .crcError
        mode := if e = .transmitDone then autoEdge s.mode else s.mode
        trace := s.trace ++
          (if e = .crcError then [.diag .crcFailure] else if e = .none then [.diag .noneEvent] else []) } := by
  cases e <;> simp [applyEvent, State.setFlag, State.diag, State.emit]

end Sys2Proof.Machine
end

