-- ==== Sys2Proof/Laws/PerInstr.lean ====
section
/-! SUPPORT. The family Canonical of LAWS.json: the canonical spelling of an instruction has the same code, is
well-formed when the instruction is, and is its own canonical spelling. -/

namespace Sys2Proof.Laws

/-- 30_encoding R127 and 40_register_interface R141: a second spelling of a code changes nothing but the name. -/
def Canonical.Statement (i : Instr) : Prop :=
  encode i.canonical = encode i ∧ (i.wf = true → i.canonical.wf = true) ∧ i.canonical.canonical = i.canonical

theorem Canonical.wrreg (addr : Addr) (value : Byte) : Canonical.Statement (.wrreg addr value) := ⟨rfl, id, rfl⟩

theorem Canonical.rdreg (addr : Addr) : Canonical.Statement (.rdreg addr) := ⟨rfl, id, rfl⟩

theorem Canonical.wrfifo (n : Byte) : Canonical.Statement (.wrfifo n) := ⟨rfl, id, rfl⟩

theorem Canonical.rdfifo (n : Byte) : Canonical.Statement (.rdfifo n) := ⟨rfl, id, rfl⟩

theorem Canonical.reset : Canonical.Statement .reset := ⟨rfl, id, rfl⟩

theorem Canonical.init : Canonical.Statement .init := ⟨rfl, id, rfl⟩

theorem Canonical.setmode (m : RadioMode) : Canonical.Statement (.setmode m) := ⟨rfl, id, rfl⟩

theorem Canonical.sleep : Canonical.Statement .sleep := ⟨rfl, id, rfl⟩

theorem Canonical.standby : Canonical.Statement .standby := ⟨rfl, id, rfl⟩

theorem Canonical.listen : Canonical.Statement .listen := ⟨rfl, id, rfl⟩

theorem Canonical.send (len : Half) : Canonical.Statement (.send len) := ⟨rfl, id, rfl⟩

theorem Canonical.recv (cap : Half) : Canonical.Statement (.recv cap) := ⟨rfl, id, rfl⟩

theorem Canonical.evtake (k : EventKind) : Canonical.Statement (.evtake k) := ⟨rfl, id, rfl⟩

theorem Canonical.evclear (k : EventKind) : Canonical.Statement (.evclear k) := ⟨rfl, id, rfl⟩

theorem Canonical.evpeek (k : EventKind) : Canonical.Statement (.evpeek k) := ⟨rfl, id, rfl⟩

theorem Canonical.irqmask (b : Bool) : Canonical.Statement (.irqmask b) := ⟨rfl, id, rfl⟩

theorem Canonical.w1 (a : Addr) (v : Byte) : Canonical.Statement (.w1 a v) := ⟨rfl, id, rfl⟩

theorem Canonical.r1 (a : Addr) (d : Byte) : Canonical.Statement (.r1 a d) := ⟨rfl, id, rfl⟩

theorem Canonical.wb (data : List Byte) : Canonical.Statement (.wb data) := by
  match data with
  | [] => exact ⟨rfl, id, rfl⟩
  | [v] => exact ⟨rfl, fun _ => rfl, rfl⟩
  | _ :: _ :: _ => exact ⟨rfl, id, rfl⟩

theorem Canonical.rb (n : Byte) : Canonical.Statement (.rb n) := by
  by_cases h : n = 1
  · subst h; exact ⟨rfl, id, rfl⟩
  · have hc : (Instr.rb n).canonical = .rb n := if_neg h
    exact ⟨congrArg encode hc, fun _ => congrArg Instr.wf hc, congrArg Instr.canonical hc⟩

theorem Canonical.irqsvc : Canonical.Statement .irqsvc := ⟨rfl, id, rfl⟩

end Sys2Proof.Laws
end

