-- ==== Sys2Proof/Laws/Radio.lean ====
section
/-! SUPPORT. The premises on the radio: how a complete transaction stands in a trace, and that an unknown radio
contradicts no answer but that of Version. -/

namespace Sys2Proof.Machine

/-- A bracket that opens starts afresh: what stood before it keeps its acts. -/
theorem traceActs_append_sel (tr es : List Event) (sent got : List Byte) :
    traceActs (tr ++ .sel :: es) sent got = traceActs tr sent got ++ traceActs es [] [] := by
  induction tr generalizing sent got with
  | nil => rfl
  | cons e tr ih =>
    cases e with
    | rst level => cases level <;> simp [traceActs, ih]
    | _ => simp [traceActs, ih]

/-- The bytes of an open bracket, up to its end, are one transaction. -/
theorem traceActs_xfers (outs ins sent got : List Byte) (hlen : ins.length = outs.length) :
    traceActs (List.zipWith Event.xfer outs ins ++ [.desel]) sent got =
      [.transaction ⟨sent ++ outs, got ++ ins⟩] := by
  induction outs generalizing ins sent got with
  | nil =>
    obtain rfl : ins = [] := List.length_eq_zero_iff.mp hlen
    simp [traceActs]
  | cons b bs ih =>
    cases ins with
    | nil => simp at hlen
    | cons r rs =>
      simp only [List.zipWith_cons_cons, List.cons_append, traceActs]
      rw [ih rs _ _ (by simpa using hlen)]
      simp

/-- One more complete transaction is one more act. -/
theorem traceActs_append_bracket (tr : List Event) (outs ins : List Byte) (hlen : ins.length = outs.length) :
    traceActs (tr ++ bracketEvents outs ins) [] [] = traceActs tr [] [] ++ [.transaction ⟨outs, ins⟩] := by
  rw [bracketEvents, traceActs_append_sel, traceActs_xfers _ _ _ _ hlen]
  rfl

/-- A run of acts that meets no contradiction is one in its first part and, from there, in its rest. -/
theorem Radio.follow_append (xs ys : List RadioAct) (r : Radio) :
    Radio.follow (xs ++ ys) r = (Radio.follow xs r).bind (Radio.follow ys) := by
  induction xs generalizing r with
  | nil => rfl
  | cons x xs ih =>
    simp only [List.cons_append, Radio.follow]
    cases r.act x with
    | none => rfl
    | some r' => exact ih r'

/-- Of an unknown radio every answer but that of Version is possible (70_reset_and_hazards R293). -/
theorem Radio.unknown_agrees (a : Addr) (v : Byte) (h : a ≠ RadioReg.version.addr) :
    Radio.unknown.agrees a v = true := by
  simp [Radio.agrees, Radio.unknown, h]

/-- After 0xFF was written to IrqFlags a read agrees only if all eight bits are 0 (20_memory R89). -/
theorem Radio.agrees_after_clear (r : Radio) (v : Byte) :
    (r.clearFlags 0xFF).agrees RadioReg.irqFlags.addr v = true ↔ v = 0 := by
  have hv : v &&& (0xFF : Byte) = v := BitVec.and_allOnes
  have hc : r.flagsClear ||| (0xFF : Byte) = 0xFF := BitVec.or_allOnes
  have hs : r.flagsSet &&& ~~~(0xFF : Byte) = 0 := by
    rw [show ~~~(0xFF : Byte) = 0 from rfl]; simp
  simp only [Radio.agrees, Radio.clearFlags, hs, hc, hv]
  rw [if_neg (by decide)]
  simp

/-- A read of a register of the map changes nothing known; one of an unlisted address leaves nothing known. -/
theorem Radio.readReg_cases (r r' : Radio) (a : Addr) (v : Byte) (h : r.readReg a v = some r') :
    (Radio.listed a = true ∧ r.agrees a v = true ∧ r' = r) ∨ (Radio.listed a = false ∧ r' = r.forget) := by
  unfold Radio.readReg at h
  cases hl : Radio.listed a
  · simp only [hl, Bool.false_eq_true, if_false, Option.some.injEq] at h
    exact .inr ⟨rfl, h.symm⟩
  · simp only [hl, if_true] at h
    split at h
    · next ha => exact .inl ⟨rfl, ha, (Option.some.inj h).symm⟩
    · cases h

/-- Whatever is known, an answer to a read of Version agrees only if it is 0x12 (20_memory R84). -/
theorem Radio.agrees_version (r : Radio) (v : Byte) (h : r.agrees RadioReg.version.addr v = true) :
    v = Config.versionExpected := by
  simpa [Radio.agrees] using h

end Sys2Proof.Machine
end

