-- ==== Sys2Proof/Laws/Step.lean ====
section
/-! SUPPORT. The arbiter, said once: each case of who gets the step. -/

namespace Sys2Proof.Machine

/-- Every meaning answers a next state. -/
theorem exec_next (i : Instr) (s : State) : ∃ t, exec i s = .next t := by
  cases i <;> exact ⟨_, rfl⟩

@[simp] theorem sampleIrq_serviceMayStart_of_quiet {s : State} {rest : List (List Bool)} (h : s.irqIn = [] :: rest) :
    (sampleIrq s).serviceMayStart = s.serviceMayStart := by
  simp [State.serviceMayStart, State.nextLevels, h, hasRise]

/-- A bus held by a transfer that never completes gives the step to nobody. -/
theorem arbitrate_stuck {s : State} (h : s.cs = true) : arbitrate s = (none, s) := by simp [arbitrate, h]

/-- A running or startable service has the step. -/
theorem arbitrate_service {s : State} (hc : s.cs = false) (h : s.inService = true ∨ s.serviceMayStart = true) :
    arbitrate s = (some .irqsvc, s) := by
  rcases h with h | h <;> simp [arbitrate, hc, h]

/-- A placed frame goes before the main context. -/
theorem arbitrate_frame {s : State} {bytes : List Byte} (hc : s.cs = false) (hi : s.inService = false)
    (hm : s.serviceMayStart = false) (hb : s.busReq = some bytes) : arbitrate s = fetchFrame bytes s := by
  simp [arbitrate, hc, hi, hm, hb]

/-- The running command has the step. -/
theorem arbitrate_resume {s : State} {p : SeqPos} (hc : s.cs = false) (hi : s.inService = false)
    (hm : s.serviceMayStart = false) (hb : s.busReq = none) (hs : s.seq = some p) :
    arbitrate s = (some p.cmd, s) := by
  simp [arbitrate, hc, hi, hm, hb, hs]

/-- The host's next offer has the step. -/
theorem arbitrate_offer {s : State} (hc : s.cs = false) (hi : s.inService = false)
    (hm : s.serviceMayStart = false) (hb : s.busReq = none) (hs : s.seq = none) : arbitrate s = fetchOffer s := by
  simp [arbitrate, hc, hi, hm, hb, hs]

/-- Everything the arbiter can decide. -/
theorem arbitrate_cases (s : State) :
    (s.cs = true ∧ arbitrate s = (none, s)) ∨
      (s.cs = false ∧ (s.inService = true ∨ s.serviceMayStart = true) ∧ arbitrate s = (some .irqsvc, s)) ∨
      (s.cs = false ∧ s.inService = false ∧ s.serviceMayStart = false ∧
        ((∃ bytes, s.busReq = some bytes ∧ arbitrate s = fetchFrame bytes s) ∨
          (s.busReq = none ∧ ∃ p, s.seq = some p ∧ arbitrate s = (some p.cmd, s)) ∨
          (s.busReq = none ∧ s.seq = none ∧ arbitrate s = fetchOffer s))) := by
  cases hc : s.cs
  · cases hi : s.inService
    · cases hm : s.serviceMayStart
      · refine .inr (.inr ⟨rfl, rfl, rfl, ?_⟩)
        cases hb : s.busReq with
        | some bytes => exact .inl ⟨bytes, rfl, arbitrate_frame hc hi hm hb⟩
        | none =>
          cases hs : s.seq with
          | some p => exact .inr (.inl ⟨rfl, p, rfl, arbitrate_resume hc hi hm hb hs⟩)
          | none => exact .inr (.inr ⟨rfl, rfl, arbitrate_offer hc hi hm hb hs⟩)
      · exact .inr (.inl ⟨rfl, .inr rfl, arbitrate_service hc (.inr hm)⟩)
    · exact .inr (.inl ⟨rfl, .inl rfl, arbitrate_service hc (.inl hi)⟩)
  · exact .inl ⟨rfl, arbitrate_stuck hc⟩

end Sys2Proof.Machine
end

