-- ==== Sys2Proof/Tests/Slice0.lean ====
section
/-! SUPPORT. The model's own tests: one step each, the expected results from spec/95_test_vectors; words written out from
30_encoding decode; the well-formedness checks refuse; and for every statement with hypotheses a state that meets them. -/

namespace Sys2Proof.Tests

open Sys2Proof.Machine

/-! ### Small states -/

/-- After a reset, the radio answering these bytes, the line quiet. -/
def awake (ins : List Byte) : State :=
  { State.reset with
    resetDone := true, replies := ins.map some, irqIn := List.replicate 16 [], txBuf := [0x50, 0x69, 0x6E] }

/-- The same with a command at one of its steps. -/
def running (i : Instr) (k : Nat) (ins : List Byte) : State := { awake ins with seq := some ⟨i, k⟩ }

/-- The state whose radio answers these bytes and then never again. -/
def hanging (s : State) (got : List Byte) : State := { s with replies := got.map some ++ [none] }

/-- A configuration with 95_test_vectors' frequency and a preamble of 0x0123. -/
def sampleConfig : RadioConfig :=
  { frequency := 915000100, bw := 0, cr := 0, sf := 0, crc := false, preamble := 0x0123, power := 0 }

/-- An offer of one word. -/
def offer (w : CmdWord) : Offer := { word := w, payload := none, config := none, freshRx := false }

/-- The state with this word at the command port. -/
def offering (w : CmdWord) (s : State) : State := { s with hostIn := [some (offer w)] }

/-- The next state, if there is one. -/
def nextOf : Host.Outcome State Fault Refusal → Option State
  | .next t => some t
  | .fault _ => none
  | .refused _ => none

/-- What a next state shows: the brackets on the wire and the result word. -/
def shows (o : Host.Outcome State Fault Refusal) : Option (List (List Byte) × Option (BitVec 16)) :=
  (nextOf o).map fun t => (wireGroups t.trace [], t.result.map Result.word)

/-! ### Well-formedness -/

theorem test_wf_refuses_zero_capacity : (Instr.recv 0).wf = false := by decide
theorem test_wf_refuses_long_burst : (Instr.wb (List.replicate 256 0)).wf = false := by
  rw [Instr.wf, List.length_replicate]; rfl
theorem test_wf_accepts_bounds : (Instr.recv 1).wf = true ∧ (Instr.wb (List.replicate 255 0)).wf = true := by
  refine ⟨rfl, ?_⟩
  rw [Instr.wf, List.length_replicate]; rfl

/-! ### Decoding: words from 30_encoding R121, R122, R127 and frames from R101 to R104 -/

theorem test_decode_wrreg : decodeCommand 0x017F00FF = .ok (.wrreg 0x7F 0xFF) := by decide
theorem test_decode_rdreg : decodeCommand 0x02130000 = .ok (.rdreg 0x13) := by decide
theorem test_decode_wrfifo : decodeCommand 0x03000006 = .ok (.wrfifo 6) := by decide
theorem test_decode_rdfifo : decodeCommand 0x040000FF = .ok (.rdfifo 255) := by decide
theorem test_decode_reset : decodeCommand 0x10000000 = .ok .reset := by decide
theorem test_decode_init : decodeCommand 0x11000000 = .ok .init := by decide
theorem test_decode_setmode : decodeCommand 0x12030000 = .ok (.setmode .transmit) := by decide

/-- SLEEP, STANDBY and LISTEN are SETMODE's words (R127). -/
theorem test_decode_pseudo :
    decode (encode .sleep) = .ok (.setmode .sleep) ∧ encode .sleep = .cmd 0x12000000 ∧
      decode (encode .standby) = .ok (.setmode .standby) ∧ encode .standby = .cmd 0x12010000 ∧
      decode (encode .listen) = .ok (.setmode .receiveContinuous) ∧ encode .listen = .cmd 0x12050000 := by decide

theorem test_decode_send : decodeCommand 0x1300012C = .ok (.send 300) := by decide
theorem test_decode_recv : decodeCommand 0x14000040 = .ok (.recv 64) := by decide
theorem test_decode_evtake : decodeCommand 0x20030000 = .ok (.evtake .crcError) := by decide
theorem test_decode_evclear : decodeCommand 0x21010000 = .ok (.evclear .txDone) := by decide
theorem test_decode_evpeek : decodeCommand 0x22020000 = .ok (.evpeek .rxDone) := by decide
theorem test_decode_irqmask :
    decodeCommand 0x23010000 = .ok (.irqmask true) ∧ decodeCommand 0x23000000 = .ok (.irqmask false) := by decide
theorem test_decode_w1 : decodeTableWord 16 0b1000110100101010 = some (.w1 0x0D 0x2A) := by decide
theorem test_decode_r1 : decodeTableWord 16 0b0100001000000000 = some (.r1 0x42 0x00) := by decide
theorem test_decode_wb :
    decodeTableWord 8 0b10000000 = some (.wb []) ∧ decodeFrame [0x80, 0xDE, 0xAD] = .ok (.wb [0xDE, 0xAD]) := by decide
theorem test_decode_rb :
    decodeTableWord 8 0b00000000 = some (.rb 0) ∧ decodeFrame [0x00, 0x00, 0x00] = .ok (.rb 2) := by decide
theorem test_decode_irqsvc : decode (encode .irqsvc) = .error .noCode ∧ decodeTableWord 0 0 = none := by decide

/-- The words 95_test_vectors lists as refused (V-RI, V-MODE, V-RECV, V-EV). -/
theorem test_decode_refuses :
    ([0x01800000, 0x01000100, 0x02420001, 0x03000100, 0x12020000, 0x12040000, 0x12060000, 0x12070000, 0x12080000,
      0x12010001, 0x14000000, 0x20000000, 0x21000000, 0x22000000, 0x20040000, 0x23020000, 0x24000000, 0x00000000,
      0xFFFFFFFF] : List CmdWord).any (fun c => (decodeCommand c).toBool) = false := by decide

/-! ### Register Interface (V-RI) -/

theorem test_wrreg : shows (step (offering 0x01220006 (awake [0, 0]))) = some ([[0xA2, 0x06]], some 0x0000) := by decide

theorem test_rdreg : shows (step (offering 0x027F0000 (awake [0, 0xA5]))) = some ([[0x7F, 0x00]], some 0xA500) := by
  decide

theorem test_wrfifo :
    shows (step (offering 0x03000003 (awake [0, 0, 0, 0]))) = some ([[0x80, 0x50, 0x69, 0x6E]], some 0x0000) := by
  decide

theorem test_rdfifo :
    (nextOf (step (offering 0x04000002 (awake [0, 0xDE, 0xAD])))).map (fun t => (t.rxBuf, t.result)) =
      some ([(0, 0xDE), (1, 0xAD)], some ⟨2, .ok⟩) := by decide

theorem test_guarded_address :
    (nextOf (step (offering 0x01010085 (awake [0, 0])))).map (fun t => (t.trace, t.result, t.declined)) =
      some ([], none, some .guardedAddress) := by decide

theorem test_before_reset :
    (nextOf (step (offering 0x12050000 { awake [0, 0] with resetDone := false }))).map (fun t => (t.mode, t.declined)) =
      some (.preSleep, some .beforeReset) := by decide

/-! ### Modes, reset, initialization (V-MODE, V-FRF, V-INIT) -/

theorem test_setmode :
    shows (exec (.setmode .transmit) (awake [0, 0])) = some ([[0x81, 0x83]], some 0x0000) ∧
      (nextOf (exec (.setmode .transmit) (awake [0, 0]))).map State.modeO = some .transmit := by decide

theorem test_sleep : shows (exec .sleep (awake [0, 0])) = some ([[0x81, 0x80]], some 0x0000) := by decide
theorem test_standby : shows (exec .standby (awake [0, 0])) = some ([[0x81, 0x81]], some 0x0000) := by decide
theorem test_listen : shows (exec .listen (awake [0, 0])) = some ([[0x81, 0x85]], some 0x0000) := by decide

theorem test_reset :
    (nextOf (exec .reset { awake [] with mode := .transmit, initOk := true, evRx := true, irqMask := true })).map
      (fun t => (t.mode, t.resetDone, t.initOk, t.evRx, t.irqMask)) =
      some (.preSleep, true, false, true, true) := rfl

theorem test_frequency_words :
    frfWord 169400000 = 0x2A5999 ∧ frfWord 61 = 0 ∧ frfWord 62 = 1 ∧ frfWord 4294967295 = 0x31BDE8 := by decide

theorem test_init_preamble :
    shows (exec .init { running .init 10 [0, 0] with cfg := some sampleConfig }) = some ([[0xA1, 0x23]], none) := rfl

theorem test_init_identity : shows (exec .init (running .init 13 [0, 0x22])) = some ([[0x42, 0x00]], some 0x2281) := by
  decide

/-! ### SEND and RECV (V-SEND, V-RECV) -/

theorem test_send_oversized : shows (exec (.send 256) (awake [])) = some ([], some 0x0082) := by decide

theorem test_send_last :
    shows (exec (.send 6) (running (.send 6) 5 [0, 0])) = some ([[0x81, 0x83]], some 0x0000) := by decide

theorem test_recv_nothing : shows (exec (.recv 64) (awake [])) = some ([], some 0x0001) := by decide

theorem test_recv_truncates :
    (nextOf (exec (.recv 4) { running (.recv 4) 4 [0, 0x50, 0x69, 0x6E] with recvLen := 6, irqMask := true })).map
      (fun t => (t.rxBuf, t.result.map Result.word, t.irqMask)) =
      some ([(0, 0x50), (1, 0x69), (2, 0x6E)], some 0x0302, false) := by decide

/-! ### Event flags, mask, service (V-EV, V-IRQ) -/

theorem test_evtake :
    (nextOf (exec (.evtake .rxDone) { awake [] with evRx := true, evTx := true })).map
      (fun t => (t.result.map Result.word, t.evRx, t.evTx)) = some (some 0x0000, false, true) := by decide

theorem test_evclear :
    (nextOf (exec (.evclear .crcError) { awake [] with evCrc := true })).map (fun t => (t.result.map Result.word, t.evCrc)) =
      some (some 0x0000, false) := by decide

theorem test_evpeek :
    (nextOf (exec (.evpeek .rxDone) { awake [] with evRx := true })).map (fun t => (t.result.map Result.word, t.evRx)) =
      some (some 0x0000, true) := by decide

theorem test_irqmask :
    (nextOf (exec (.irqmask true) { awake [] with irqPend := true })).map (fun t => (t.irqMask, t.irqPend)) =
      some (true, true) := by decide

theorem test_irqsvc_reads :
    (nextOf (step { awake [0, 0x48] with irqIn := [[true]], mode := .transmit })).map
      (fun t => (wireGroups t.trace [], t.svcFlags, t.mode)) = some ([[0x12, 0x00]], some 0x48, .transmit) := by decide

theorem test_irqsvc_applies :
    (nextOf (exec .irqsvc { awake [0, 0] with inService := true, svcFlags := some 0x08, mode := .transmit })).map
      (fun t => (wireGroups t.trace [], t.evTx, t.mode, t.inService)) =
      some ([[0x92, 0xFF]], true, .standby, false) := by decide

/-! ### Frames -/

theorem test_w1 :
    (nextOf (exec (.w1 0x0D 0x2A) (awake [1, 2]))).map (fun t => (wireGroups t.trace [], t.kept)) =
      some ([[0x8D, 0x2A]], []) := by decide

theorem test_r1 :
    (nextOf (exec (.r1 0x42 0x00) (awake [1, 0x12]))).map (fun t => (wireGroups t.trace [], t.kept)) =
      some ([[0x42, 0x00]], [0x12]) := by decide

theorem test_wb :
    (nextOf (exec (.wb [0xDE, 0xAD]) (awake [1, 2, 3]))).map (fun t => (wireGroups t.trace [], t.kept)) =
      some ([[0x80, 0xDE, 0xAD]], []) := by decide

theorem test_rb :
    (nextOf (exec (.rb 2) (awake [1, 2, 3]))).map (fun t => (wireGroups t.trace [], t.kept)) =
      some ([[0x00, 0x00, 0x00]], [2, 3]) := by decide

/-- A word placed for the host's questions runs as the first instruction after reset. -/
theorem test_first_word_after_reset :
    (nextOf (step (State.reset.withFetchWord 32 0x23010000))).map (·.irqMask) = some true := by decide

/-! ### The premises on the radio: what they leave open contradicts no trace, what they state does -/

/-- U6: IrqFlags may read any value before it is written, after a pulse too; after 0xFF was written it reads 0. -/
theorem test_radio_flags_unknown_until_written :
    (Radio.follow [.pulse, .transaction ⟨[0x12, 0x00], [0, 0x48]⟩] Radio.unknown).isSome = true ∧
      (Radio.follow [.transaction ⟨[0x92, 0xFF], [0, 0]⟩, .transaction ⟨[0x12, 0x00], [0, 0x48]⟩] Radio.unknown).isSome =
        false := by decide

/-- R89: after 0xFF was written all eight bits read 0, until the radio sets one. -/
theorem test_radio_all_eight_flags_cleared :
    (Radio.follow [.transaction ⟨[0x92, 0xFF], [0, 0]⟩, .transaction ⟨[0x12, 0x00], [0, 0x97]⟩] Radio.unknown).isSome =
        false ∧
      (Radio.follow [.transaction ⟨[0x92, 0xFF], [0, 0]⟩, .otherFlags 0x97, .transaction ⟨[0x12, 0x00], [0, 0x97]⟩]
        Radio.unknown).isSome = true := by decide

/-- R76: after a read of an unlisted address a register may read as anything. -/
theorem test_radio_unlisted_read :
    (Radio.follow [.transaction ⟨[0xA2, 0x06], [0, 0]⟩, .transaction ⟨[0x7F, 0x00], [0, 0xA5]⟩,
        .transaction ⟨[0x22, 0x00], [0, 0x07]⟩] Radio.unknown).isSome = true ∧
      (Radio.follow [.transaction ⟨[0xA2, 0x06], [0, 0]⟩, .transaction ⟨[0x13, 0x00], [0, 0xA5]⟩,
        .transaction ⟨[0x22, 0x00], [0, 0x07]⟩] Radio.unknown).isSome = false := by decide

/-- G4: after one bad packet both CRC error and receive done may be set; CRC error must be. -/
theorem test_radio_bad_packet :
    (Radio.follow [.transaction ⟨[0x92, 0xFF], [0, 0]⟩, .packet 0 [] true 0x40,
        .transaction ⟨[0x12, 0x00], [0, 0x60]⟩] Radio.unknown).isSome = true ∧
      (Radio.follow [.transaction ⟨[0x92, 0xFF], [0, 0]⟩, .packet 0 [] true 0x40,
        .transaction ⟨[0x12, 0x00], [0, 0x40]⟩] Radio.unknown).isSome = false := by decide

/-- N10: what was written before Sleep may read as anything after it; what was written in Standby stays. -/
theorem test_radio_forgets_in_sleep :
    (Radio.follow [.transaction ⟨[0x81, 0x81], [0, 0]⟩, .transaction ⟨[0xA2, 0x06], [0, 0]⟩,
        .transaction ⟨[0x81, 0x80], [0, 0]⟩, .transaction ⟨[0x22, 0x00], [0, 0x07]⟩] Radio.unknown).isSome = true ∧
      (Radio.follow [.transaction ⟨[0x81, 0x81], [0, 0]⟩, .transaction ⟨[0xA2, 0x06], [0, 0]⟩,
        .transaction ⟨[0x81, 0x85], [0, 0]⟩, .transaction ⟨[0x22, 0x00], [0, 0x07]⟩] Radio.unknown).isSome = false := by
  decide

/-! ### The hypotheses of the statements are met -/

/-- Power-on, two idle entries at the port, an edge before the step. -/
theorem witness_PowerOnStateAndSilence :
    let s : State := { State.reset with hostIn := [none, none], irqIn := [[false, true]] }
    s.awaitsFirstCommand ∧ ∃ t, step s = .next t :=
  ⟨by decide, _, rfl⟩

theorem witness_DecodeAfterEncode :
    (Instr.recv 1).wf = true ∧ Instr.recv 1 ≠ .irqsvc ∧ (Instr.wb (List.replicate 255 7)).wf = true := by
  refine ⟨rfl, nofun, ?_⟩
  rw [Instr.wf, List.length_replicate]; rfl

theorem witness_EncodeAfterDecode :
    decode (.cmd 0x140000FF) = .ok (.recv 255) ∧ decode (.spi [0xFF, 0x01]) = .ok (.w1 0x7F 0x01) := by decide

theorem witness_WordIsRowsCommandByMatchAndMask :
    (⟨"WRREG", 0x01000000, 0xFF80FF00, fun _ => true⟩ : MatchRow) ∈ matchTable ∧
      (⟨"WRREG", 0x01000000, 0xFF80FF00, fun _ => true⟩ : MatchRow).hits 0x017F00FF = true :=
  ⟨List.mem_cons_self, by decide⟩

theorem witness_StepRunsTheOfferedCommand :
    (offering 0x12050000 (awake [0, 0])).mainsTurn ∧ (offering 0x12050000 (awake [0, 0])).seq = none ∧
      (offering 0x12050000 (awake [0, 0])).hostIn = some (offer 0x12050000) :: [] ∧
      decodeCommand (offer 0x12050000).word = .ok (.setmode .receiveContinuous) := by decide

theorem witness_StepResumesTheRunningCommand :
    (running (.send 3) 2 [0, 0]).mainsTurn ∧ (running (.send 3) 2 [0, 0]).seq = some ⟨.send 3, 2⟩ := by decide

theorem witness_NextStepRunsThePlacedWord :
    decodeTableWord 32 0x10000000 = some .reset ∧ decodeTableWord 16 0x8D00 = some (.w1 0x0D 0) ∧
      decodeTableWord 8 0x80 = some (.wb []) := by decide

/-- An edge before the step, in three places where the service may start: idle, between two steps of SEND, and between
INIT's reset and its first transaction. -/
theorem witness_ServiceStarts_allowed :
    ∀ q ∈ [none, some ⟨.send 3, 2⟩, some (⟨.init, 1⟩ : SeqPos)],
      let s : State := { awake [0, 0] with irqIn := [[true]], seq := q }
      (sampleIrq s).irqPend = true ∧ s.irqMask = false ∧ s.inService = false ∧ s.resetDone = true ∧ s.cs = false ∧
        (q = none ∨ q = some ⟨.send 3, 2⟩ ∨ q = some ⟨.init, 1⟩) := by decide

theorem witness_ServiceStarts_held :
    (∃ t, step (awake []) = .next t ∧ (sampleIrq (awake [])).irqPend = false) ∧
      (∃ t, step { awake [] with irqIn := [[true]], irqMask := true } = .next t) ∧
      (∃ t, step { awake [] with irqIn := [[true]], resetDone := false } = .next t) ∧
      (∃ t, step { awake [] with irqIn := [[true]], cs := true } = .next t) ∧
      (∃ t, step { running (.recv 1) 4 [0] with irqIn := [[true]] } = .next t ∧
        (⟨.recv 1, 4⟩ : SeqPos).inRecv = true) :=
  ⟨⟨_, rfl, rfl⟩, ⟨_, rfl⟩, ⟨_, rfl⟩, ⟨_, rfl⟩, ⟨_, rfl, rfl⟩⟩

theorem witness_EdgesAreLatchedLevelByLevel :
    ({ awake [] with irqIn := [[true]] } : State).irqIn = [true] :: [] ∧
      ({ awake [] with irqIn := [[true, false, true]] } : State).irqIn = (true :: [false, true]) :: [] := by decide

/-- A block in the middle of a SEND meets the invariant, and its step has a next state. -/
theorem witness_EveryStepKeepsTheInvariant :
    (running (.send 3) 3 [0, 1, 2, 3]).Inv ∧ ∃ t, step (running (.send 3) 3 [0, 1, 2, 3]) = .next t := by
  refine ⟨⟨rfl, rfl, nofun, ?_, rfl, rfl, nofun, nofun, nofun, nofun, fun _ => rfl, ?_, ?_⟩, ⟨_, rfl⟩⟩ <;>
    (intro p h; cases h; decide)

/-- A mode write of an offered command, and the automatic edge of a service. -/
theorem witness_ModeHasOnlyItsWriters :
    (nextOf (step (offering 0x12050000 (awake [0, 0])))).map (fun t => decide (t.mode ≠ (awake []).mode)) = some true ∧
      (nextOf (step { awake [0, 0] with inService := true, svcFlags := some 0x08, mode := .transmit })).map
        (fun t => decide (t.mode ≠ .transmit)) = some true := by decide

theorem witness_EventFlagsAreSetOnlyByTheService :
    ∀ f ∈ ([0x08, 0x40, 0x20] : List Byte),
      (nextOf (step { awake [0, 0] with inService := true, svcFlags := some f })).map
        (fun t => (t.evTx, t.evRx, t.evCrc)) = some (f == 0x08, f == 0x40, f == 0x20) := by decide

theorem witness_StuckBusStopsEverything : ({ running .init 5 [] with cs := true } : State).cs = true := rfl

/-- The header's transfer, or the last one, never completes. -/
theorem witness_CommandWithADeadTransferStaysAtItsStep :
    ∀ got ∈ [([] : List Byte), [1]],
      (hanging (awake []) got).ready ∧ (hanging (awake []) got).resetDone = true ∧ (hanging (awake []) got).dies got ∧
        got.length < ([(0x00 : Addr).setWidth 8 ||| 0x80, 7] : List Byte).length ∧ (0x00 : Addr) ≠ 0x01 ∧
        (0x7F : Addr) ≠ 0x12 ∧ got.length < ((0x00 : Byte) :: List.replicate (1 : Byte).toNat 0x00).length ∧
        got.length < ((0x80 : Byte) :: payloadBytes (1 : Byte).toNat (hanging (awake []) got)).length := by decide

/-- A read of one byte whose second transfer never completes keeps `cs` at 1 and hands nothing back. -/
theorem test_rdreg_dead_data_transfer :
    (nextOf (exec (.rdreg 0x42) (hanging (awake []) [1]))).map (fun t => (t.cs, t.result, t.trace)) =
      some (true, none, [.sel, .xfer 0x42 1]) := by decide

theorem witness_InitWithADeadTransferStaysAtItsStep :
    ∀ k ∈ [1, 3, 12, 13], ∀ got ∈ [([] : List Byte), [1]],
      let s : State := { hanging (running .init k []) got with cfg := some sampleConfig }
      s.cfg = some sampleConfig ∧ s.atStep .init k ∧ s.dies got ∧ got.length < ([0x42, 0x00] : List Byte).length := by
  decide

theorem witness_SendWithADeadTransferStaysAtItsStep :
    (255 : Half).toNat ≤ 255 ∧ (hanging (awake []) [1]).ready ∧ (hanging (awake []) [1]).dies [1] ∧
      (hanging (running (.send 3) 2 []) []).atStep (.send 3) 2 ∧ (hanging (running (.send 3) 2 []) []).dies [] ∧
      (hanging (running (.send 3) 3 []) [1, 2, 3]).atStep (.send 3) 3 ∧
      (hanging (running (.send 3) 3 []) [1, 2, 3]).dies [1, 2, 3] ∧
      ([1, 2, 3] : List Byte).length < ((0x80 : Byte) :: payloadBytes 3 (hanging (running (.send 3) 3 []) [1, 2, 3])).length ∧
      (hanging (running (.send 3) 4 []) [1]).atStep (.send 3) 4 ∧ (hanging (running (.send 3) 5 []) [1]).atStep (.send 3) 5 := by
  decide

theorem witness_RecvWithADeadTransferStaysAtItsStep :
    let s (k : Nat) (got : List Byte) : State := { hanging (running (.recv 6) k []) got with recvLen := 6 }
    (6 : Half) ≠ 0 ∧ (s 2 [1]).atStep (.recv 6) 2 ∧ (s 2 [1]).dies [1] ∧ (s 3 []).atStep (.recv 6) 3 ∧ (s 3 []).dies [] ∧
      (s 4 [0, 1, 2, 3, 4]).atStep (.recv 6) 4 ∧ (s 4 [0, 1, 2, 3, 4]).dies [0, 1, 2, 3, 4] ∧
      ([0, 1, 2, 3, 4] : List Byte).length < min (s 4 []).recvLen.toNat ((6 : Half).toNat - 1) + 1 ∧
      ({ hanging (awake []) [1] with evRx := true } : State).ready ∧
      ({ hanging (awake []) [1] with evRx := true } : State).dies [1] := by decide

theorem witness_ServiceWithADeadTransferStaysInService :
    ∀ got ∈ [([] : List Byte), [1]],
      got.length < 2 ∧ ({ hanging (awake []) got with irqPend := true } : State).dies got ∧
        ({ hanging (awake []) got with irqPend := true } : State).serviceMayStart = true ∧
        ({ hanging (awake []) got with inService := true, svcFlags := some 0x08 } : State).cs = false := by decide

theorem witness_BytesReturnedWhileWritingAreDiscarded :
    (awake []).ready ∧ (awake []).resetDone = true ∧ ([1, 2] : List Byte).length = 2 ∧
      ([3] : List Byte).length = (0 : Byte).toNat + 1 := by decide

theorem witness_BusCommandsBeforeResetAreTurnedAway :
    State.reset.ready ∧ State.reset.resetDone = false ∧ ∃ c, Instr.recv 1 = .recv c ∧ c ≠ 0 :=
  ⟨by decide, rfl, 1, rfl, by decide⟩

theorem witness_GuardedAddressesAreTurnedAway : (awake []).ready ∧ (awake []).resetDone = true := by decide

theorem witness_WordsThatSpellNoCommandAreTurnedAway :
    (offering 0x14000000 (awake [])).mainsTurn ∧ (offering 0x14000000 (awake [])).seq = none ∧
      (offering 0x14000000 (awake [])).hostIn = some (offer 0x14000000) :: [] ∧
      ∀ r ∈ matchTable, r.hits (offer 0x14000000).word = false := by decide

theorem witness_BusyBlockAcceptsNoCommand :
    (running (.send 3) 2 [0, 0]).busyO = true ∧ Instr.reset.commandName.isSome = true ∧
      ∃ p, (running (.send 3) 2 [0, 0]).seq = some p ∧ p.cmd ≠ .reset :=
  ⟨rfl, rfl, _, rfl, by decide⟩

theorem witness_WrregIsOneWriteTransaction :
    (awake [1, 2]).ready ∧ (awake [1, 2]).resetDone = true ∧ (0x00 : Addr) ≠ 0x01 ∧ (0x7F : Addr) ≠ 0x12 ∧
      (awake [1, 2]).answers [1, 2] := by decide

theorem witness_RdregHandsBackTheRadiosByte :
    (awake [1, 2]).ready ∧ (awake [1, 2]).resetDone = true ∧ (0x42 : Addr) ≠ 0x12 ∧ (awake [1, 2]).answers [1, 2] := by
  decide

theorem witness_WrfifoIsOneBurst :
    (awake [1, 2, 3, 4]).ready ∧ (3 : Byte).toNat ≤ (awake [1, 2, 3, 4]).txBuf.length ∧
      ([2, 3, 4] : List Byte).length = (3 : Byte).toNat ∧ (awake [1, 2, 3, 4]).answers (1 :: [2, 3, 4]) := by decide

theorem witness_RdfifoFillsTheHostBuffer :
    (awake [1]).ready ∧ ([] : List Byte).length = (0 : Byte).toNat ∧ (awake [1]).answers (1 :: []) := by decide

theorem witness_SetmodeWritesTheByteThenTakesTheMode :
    (awake [1, 2]).ready ∧ (awake [1, 2]).answers [1, 2] ∧
      ({ awake [] with replies := [some 1, none] } : State).replies = some 1 :: none :: [] := by decide

theorem witness_PseudoCommandsAreSetmode :
    (awake [1, 2]).ready ∧ (awake [1, 2]).resetDone = true ∧ (awake [1, 2]).answers [1, 2] := by decide

theorem witness_ResetPulsesAndForgetsTheMode : State.reset.ready := by decide

theorem witness_InitBeginsWithTheReset : ({ awake [] with mode := .transmit } : State).ready := by decide

theorem witness_InitSleepsThenStandsBy :
    (running .init 1 [1, 2]).answers [1, 2] ∧ (running .init 1 [1, 2]).atStep .init 1 ∧
      (running .init 2 [1, 2]).atStep .init 2 := by decide

theorem witness_InitWritesTheConfiguration :
    let s : State := { running .init 12 [1, 2] with cfg := some sampleConfig }
    s.cfg = some sampleConfig ∧ s.answers [1, 2] ∧ s.atStep .init 12 ∧
      (running .init 3 [1, 2]).atStep .init 3 := by decide

theorem witness_InitEndsWithTheIdentityCheck :
    (running .init 13 [1, 0x12]).answers [1, 0x12] ∧ (running .init 13 [1, 0x12]).atStep .init 13 := by decide

theorem witness_GenuineRadioPassesTheIdentityCheck :
    ∃ t, (running .init 13 [0, 0x12]).atStep .init 13 ∧ exec .init (running .init 13 [0, 0x12]) = .next t ∧
      t.cs = false ∧
      RadioObeys [.transmitEnds 0, .byteArrives, .transaction ⟨[0x42, 0x00], [0, 0x12]⟩] t.trace :=
  ⟨_, by decide, rfl, rfl, rfl, rfl⟩

theorem witness_WholeInit :
    let s : State :=
      { awake (List.replicate 25 0 ++ [0x12]) with
        resetDone := false, hostIn := [some { offer 0x11000000 with config := some sampleConfig }] }
    s.ready ∧ s.busReq = none ∧ s.irqPend = false ∧ quietFor 14 s ∧
      s.hostIn = some { offer 0x11000000 with config := some sampleConfig } :: [] ∧
      s.answers (List.replicate 25 0 ++ [0x12]) := by decide

theorem witness_SendRejectsOversizedPayloads :
    (awake []).ready ∧ (awake []).resetDone = true ∧ 255 < (256 : Half).toNat := by decide

theorem witness_SendStepByStep :
    (3 : Half).toNat ≤ 255 ∧ (255 : Half).toNat ≤ 255 ∧ (awake [1, 2]).ready ∧
      (running (.send 3) 2 [1, 2]).atStep (.send 3) 2 ∧ (running (.send 3) 3 [1, 2, 3, 4]).atStep (.send 3) 3 ∧
      (3 : Half).toNat ≤ (running (.send 3) 3 [1, 2, 3, 4]).txBuf.length ∧
      (running (.send 3) 3 [1, 2, 3, 4]).answers (1 :: [2, 3, 4]) ∧
      (running (.send 3) 4 [1, 2]).atStep (.send 3) 4 ∧ (running (.send 3) 5 [1, 2]).atStep (.send 3) 5 ∧
      (running (.send 3) 5 [1, 2]).answers [1, ([2] : List Byte).headD 0] := by decide

theorem witness_WholeSend :
    let s : State :=
      { awake (List.replicate 10 0) with
        mode := .receiveContinuous, hostIn := [some { offer 0x13000001 with payload := some [0x78] }] }
    s.ready ∧ s.busReq = none ∧ s.resetDone = true ∧ s.irqPend = false ∧ quietFor 5 s ∧
      s.hostIn = some { offer 0x13000001 with payload := some [0x78] } :: [] ∧
      (0x13000001 : CmdWord) = 0x13000000 ||| (1 : Half).setWidth 32 ∧ (1 : Half).toNat ≤ 255 ∧
      (List.replicate 10 (0 : Byte)).length = (1 : Half).toNat + 9 ∧ s.answers (List.replicate 10 0) := by decide

theorem witness_ReceiveClamp :
    let s : State := { running (.recv 6) 4 [0, 1, 2, 3, 4, 5] with recvLen := 6, irqMask := true }
    let z : State := { running (.recv 1) 4 [0] with recvLen := 5, irqMask := true }
    (6 : Half) ≠ 0 ∧ s.atStep (.recv 6) 4 ∧ ([1, 2, 3, 4, 5] : List Byte).length = min s.recvLen.toNat ((6 : Half).toNat - 1) ∧
      s.answers (0 :: [1, 2, 3, 4, 5]) ∧ z.atStep (.recv 1) 4 ∧
      ([] : List Byte).length = min z.recvLen.toNat ((1 : Half).toNat - 1) ∧ z.answers (0 :: []) := by decide

theorem witness_ReceiveClamp_outside :
    (nextOf (exec (.recv 4) { running (.recv 4) 4 [0, 1, 2, 3] with recvLen := 6, rxBuf := [(3, 0xAA)] })).map
      (fun t => Memory.read t.rxBuf 3) = some (some 0xAA) := by decide

theorem witness_RecvWithoutAnEventReturnsNone :
    (awake []).ready ∧ (awake []).resetDone = true ∧ (1 : Half) ≠ 0 ∧ (awake []).evRx = false := by decide

theorem witness_RecvStepByStep :
    (1 : Half) ≠ 0 ∧ ({ awake [1, 2] with evRx := true } : State).ready ∧
      ({ awake [1, 2] with evRx := true } : State).answers [1, 2] ∧ (running (.recv 1) 2 [1, 2]).atStep (.recv 1) 2 ∧
      (running (.recv 1) 3 [1, 2]).atStep (.recv 1) 3 ∧ (running (.recv 1) 3 [1, 2]).answers [1, 2] := by decide

/-- A RECV whose length byte is the capacity, an edge before its second step. -/
theorem witness_WholeRecv :
    let ins : List Byte := [0, 2] ++ [0, 0x2A] ++ [0, 0] ++ 0 :: [0x78]
    let s : State :=
      { awake ins with evRx := true, irqIn := [[], [true], [], []], hostIn := [some (offer 0x14000002)] }
    s.ready ∧ s.busReq = none ∧ s.resetDone = true ∧ (sampleIrq s).serviceMayStart = false ∧ s.evRx = true ∧
      s.hostIn = some (offer 0x14000002) :: [] ∧ (0x14000002 : CmdWord) = 0x14000000 ||| (2 : Half).setWidth 32 ∧
      (2 : Half) ≠ 0 ∧ ([0x78] : List Byte).length = min (2 : Byte).toNat ((2 : Half).toNat - 1) ∧ s.answers ins := by
  decide

theorem witness_flag_commands : ({ State.reset with evTx := true, irqPend := true } : State).ready := by decide

theorem witness_FrameW1 : (awake [1, 2]).cs = false ∧ (awake [1, 2]).answers [1, 2] := by decide

theorem witness_FrameR1 : (awake [1, 0x12]).cs = false ∧ (awake [1, 0x12]).answers [1, 0x12] := by decide

/-- Payloads of 255 and of 256 bytes. -/
theorem witness_FrameWB :
    ∀ n ∈ [255, 256],
      (awake (List.replicate (n + 1) 0)).cs = false ∧
        (List.replicate n (0 : Byte)).length = (List.replicate n (7 : Byte)).length ∧
        (awake (List.replicate (n + 1) 0)).answers (0 :: List.replicate n 0) := by
  intro n _
  exact ⟨rfl, by simp, by simp [State.answers, awake, List.replicate_succ]⟩

theorem witness_FrameRB :
    (awake [1, 2, 3]).cs = false ∧ ([2, 3] : List Byte).length = (2 : Byte).toNat ∧
      (awake [1, 2, 3]).answers (1 :: [2, 3]) := by decide

theorem witness_DecodeOfFlagsByPriority :
    (0x20 : Byte) &&& Config.irqCrcErr ≠ 0 ∧ (0x20 : Byte) &&& Config.irqRxDone = 0 ∧
      (0x40 : Byte) &&& Config.irqRxDone ≠ 0 ∧ (0x40 : Byte) &&& Config.irqCrcErr = 0 ∧
      ((0x68 : Byte) &&& Config.irqCrcErr = 0 ↔ (0x68 : Byte) &&& Config.irqRxDone = 0) ∧
      (0x68 : Byte) &&& Config.irqTxDone ≠ 0 ∧ (0x60 : Byte) &&& Config.irqTxDone = 0 := by decide

theorem witness_ServiceBeginsByReadingTheFlags :
    ({ awake [1, 0x40] with irqPend := true } : State).serviceMayStart = true ∧
      ({ awake [1, 0x40] with irqPend := true } : State).answers [1, 0x40] := by decide

theorem witness_ServiceEndsByClearingAndApplying :
    ∀ f ∈ ([0x08, 0x40, 0x20, 0x60] : List Byte),
      let s : State := { awake [1, 2] with inService := true, svcFlags := some f, mode := .transmit }
      s.cs = false ∧ s.inService = true ∧ s.svcFlags = some f ∧ s.answers [1, 2] := by decide

/-- An edge starts the service, a second edge comes during it. -/
theorem witness_WholeService :
    let s : State := { running (.send 3) 3 [1, 0x40, 2, 3] with irqIn := [[true], [false, true]] }
    s.irqIn = [true] :: [false, true] :: [] ∧ s.cs = false ∧ s.inService = false ∧
      (sampleIrq s).serviceMayStart = true ∧ s.answers [1, 0x40, 2, 3] := by decide

end Sys2Proof.Tests
end

section
/-! The placed frames (30_encoding R101 to R104) on a free bus. -/

namespace Sys2Proof.Machine

/-- The frame R1 as the machine runs it: one read transaction with the byte `d`, its reply kept. -/
theorem exec_r1 (a : Addr) (d : Byte) (s : State) :
    exec (.r1 a d) s = .next (performFrame true (transaction (readHeader a) [d]) s) := rfl

/-- A placed frame the radio answers on a free bus is one complete bracket; a reading frame keeps the replies after the
header's, any other frame keeps nothing. -/
theorem performFrame_answered {reads : Bool} {header r : Byte} {outs ins : List Byte} {s : State} (hcs : s.cs = false)
    (hlen : ins.length = outs.length) (h : s.answers (r :: ins)) :
    performFrame reads (transaction header outs) s =
      { s.afterTransaction (header :: outs) (r :: ins) with kept := if reads then ins else [] } := by
  rw [performFrame_free hcs, transaction_answered header outs r ins s hlen h]

/-- Settles O52: the frame is one answered transaction, and what it keeps is the reply to its second byte. -/
theorem frameR1 : Obligations.FrameR1 := by
  refine ⟨rfl, fun s a d r₀ v hcs hans => ?_⟩
  have hframe : performFrame true (transaction (readHeader a) [d]) s =
      { s.afterTransaction [readHeader a, d] [r₀, v] with kept := [v] } :=
    performFrame_answered hcs rfl hans
  rw [exec_r1, hframe, readHeader]

end Sys2Proof.Machine
end

section
/-! The invariant of the block through one step (10_state R20 to R33). Inside a step the invariant itself can be broken for
a moment; what holds throughout is that chip-select could be asserted now, `State.MayTransact`. The rules below say what
keeps it and how a step that has it ends. -/

namespace Sys2Proof.Machine

/-! ### The bus between two transactions -/

theorem busPhase_append_resetPulse {tr : List Event} (h : busPhase tr = some .idle) :
    busPhase (tr ++ resetPulse) = some .idle := by
  rw [busPhase, List.foldl_append, ← busPhase, h]; rfl

/-- The bracket clause of the invariant with `cs` = 0: no bracket is open. -/
theorem bracket_closed_iff {tr : List Event} :
    (busPhase tr).map (· != .idle) = some false ↔ busPhase tr = some .idle := by
  cases busPhase tr with
  | none => simp
  | some ph => cases ph <;> simp

theorem sel_bracket {s : State} (h : busPhase s.trace = some .idle) :
    (busPhase s.sel.trace).map (· != .idle) = some s.sel.cs := by
  rw [State.sel_trace, busPhase_concat, h]; rfl

/-- With `cs` = 0 no bracket is open. -/
theorem State.Inv.idle {s : State} (h : s.Inv) (hcs : s.cs = false) : busPhase s.trace = some .idle :=
  bracket_closed_iff.mp (hcs ▸ h.bracket)

/-- Nothing runs before the first reset. -/
theorem State.Inv.awake_of_busy {s : State} (h : s.Inv) (hb : s.busyO = true) : s.resetDone = true := by
  cases hd : s.resetDone with
  | true => rfl
  | false =>
    obtain ⟨-, -, -, -, -, -, hseq, hsvc, -⟩ := h.beforeReset hd
    simp [State.busyO, hseq, hsvc] at hb

/-- After the first reset the invariant's clause on the time before it says nothing. -/
theorem not_beforeReset {s : State} {P : Prop} (h : s.resetDone = true) (hd : s.resetDone = false) : P :=
  absurd (h.symm.trans hd) (by decide)

theorem SeqPos.legal_init {held : Bool} {k : Nat} :
    SeqPos.legal held ⟨.init, k⟩ = true ↔ 1 ≤ k ∧ k ≤ 13 := by simp [SeqPos.legal]

theorem SeqPos.legal_send {held : Bool} {len : Half} {k : Nat} :
    SeqPos.legal held ⟨.send len, k⟩ = true ↔
      len.toNat ≤ Config.maxPayload ∧ (if held then 1 else 2) ≤ k ∧ k ≤ 5 := by simp [SeqPos.legal, and_assoc]

theorem SeqPos.legal_recv {held : Bool} {cap : Half} {k : Nat} :
    SeqPos.legal held ⟨.recv cap, k⟩ = true ↔ cap ≠ 0 ∧ (if held then 1 else 2) ≤ k ∧ k ≤ 4 := by
  simp [SeqPos.legal, and_assoc]

/-- A position legal between two steps is one at which a transfer may also stick. -/
theorem SeqPos.legal_held {p : SeqPos} {held : Bool} (h : p.legal held = true) : p.legal true = true := by
  obtain ⟨i, k⟩ := p
  cases held with
  | true => exact h
  | false =>
    cases i with
    | init => exact h
    | send len =>
      obtain ⟨hle, hlo, hhi⟩ := SeqPos.legal_send.mp h
      exact SeqPos.legal_send.mpr ⟨hle, Nat.le_of_succ_le hlo, hhi⟩
    | recv cap =>
      obtain ⟨hcap, hlo, hhi⟩ := SeqPos.legal_recv.mp h
      exact SeqPos.legal_recv.mpr ⟨hcap, Nat.le_of_succ_le hlo, hhi⟩
    | _ => cases h

/-! ### Where a transaction may start -/

/-- The bus is free, and the invariant holds once chip-select is asserted: a transaction may start here, and may stick. -/
structure State.MayTransact (s : State) : Prop where
  free : s.cs = false
  opens : s.sel.Inv

/-- Inside step `k` of the running command `i`, at a point where a transaction may start. -/
structure State.InStep (i : Instr) (k : Nat) (s : State) : Prop extends s.MayTransact where
  outside : s.inService = false
  position : s.seq = some ⟨i, k⟩

section MayTransact
variable {s : State}

theorem State.MayTransact.awake (h : s.MayTransact) : s.resetDone = true :=
  show s.sel.resetDone = true from h.opens.awake_of_busy (h.opens.held rfl)

theorem State.MayTransact.idle (h : s.MayTransact) : busPhase s.trace = some .idle := by
  obtain ⟨ph, hph, hne⟩ := Option.map_eq_some_iff.mp h.opens.bracket
  rw [State.sel_trace, busPhase_concat] at hph
  cases hs : busPhase s.trace with
  | none => rw [hs] at hph; cases hph
  | some ph' =>
    rw [hs] at hph
    cases ph' with
    | idle => rfl
    | selected => cases hph
    | moving => cases hph

theorem State.MayTransact.closed (h : s.MayTransact) : (busPhase s.trace).map (· != .idle) = some s.cs :=
  h.free ▸ bracket_closed_iff.mpr h.idle

theorem State.MayTransact.not_stuck {P : Prop} (h : s.MayTransact) (hc : s.cs = true) : P :=
  absurd (h.free.symm.trans hc) (by decide)

theorem State.MayTransact.withMode (h : s.MayTransact) (m : Mode) : ({ s with mode := m } : State).MayTransact :=
  ⟨h.free, { h.opens with beforeReset := not_beforeReset h.awake }⟩

theorem State.MayTransact.setFlag (h : s.MayTransact) (k : EventKind) (b : Bool) : (s.setFlag k b).MayTransact := by
  cases k <;> exact ⟨h.free, { h.opens with beforeReset := not_beforeReset h.awake }⟩

theorem State.MayTransact.diag (h : s.MayTransact) (k : ErrorKind) : (s.diag k).MayTransact := by
  have hidle : busPhase (s.diag k).trace = some .idle := by
    rw [State.diag, State.emit_trace, busPhase_concat, h.idle]; rfl
  exact ⟨h.free, { h.opens with bracket := sel_bracket hidle, beforeReset := not_beforeReset h.awake }⟩

theorem State.MayTransact.applyEvent (h : s.MayTransact) (e : IrqEvent) : (applyEvent e s).MayTransact := by
  cases e with
  | none => exact h.diag .noneEvent
  | transmitDone => exact (h.setFlag .txDone true).withMode _
  | receiveDone => exact h.setFlag .rxDone true
  | crcError => exact (h.setFlag .crcError true).diag .crcFailure

/-- The service ends: the held position is one the main context goes on from (60_exceptions R265). -/
theorem State.MayTransact.leaveService (h : s.MayTransact)
    (hpos : ∀ p, s.seq = some p → p.legal false = true) : s.leaveService.Inv :=
  { h.opens with
    bracket := h.closed
    held := h.not_stuck
    position := fun p hp => (congrArg (SeqPos.legal · p) h.free).trans (hpos p hp)
    beforeReset := not_beforeReset h.awake
    service := nofun
    noService := fun _ => rfl
    alone := fun _ _ _ => rfl }

end MayTransact

/-! ### Transactions inside a step -/

/-- What a run of transfers from `s` leaves: where it sticks the invariant holds, and when it completes a transaction may
start again, the position and the service being as they were. -/
structure BusRun.Sound (s : State) (r : BusRun) : Prop where
  stuck : r.done = false → r.st.Inv
  completed : r.done = true → r.st.MayTransact ∧ r.st.seq = s.seq ∧ r.st.inService = s.inService

theorem BusRun.Sound.andThen {s : State} {r : BusRun} (h : r.Sound s) {f : List Byte → State → State}
    (hf : ∀ got t, t.MayTransact → t.seq = s.seq → t.inService = s.inService → (f got t).Inv) :
    (r.andThen f).Inv := by
  cases hd : r.done with
  | true =>
    obtain ⟨hmay, hseq, hsvc⟩ := h.completed hd
    simpa [BusRun.andThen, hd] using hf r.got r.st hmay hseq hsvc
  | false => simpa [BusRun.andThen, hd] using h.stuck hd

/-- A transaction keeps the chip-select discipline and touches nothing else the invariant speaks of. -/
theorem transaction_sound {s : State} (h : s.MayTransact) (header : Byte) (outs : List Byte) :
    (transaction header outs s).Sound s := by
  obtain ⟨tr, rs, n, hst⟩ := transaction_frame header outs s
  have hbr := transaction_bracket header outs s h.idle
  constructor
  · intro hd
    rw [hst, hd] at hbr ⊢
    exact { h.opens with bracket := hbr, beforeReset := not_beforeReset h.awake }
  · intro hd
    rw [hst, hd] at hbr ⊢
    have hidle : busPhase tr = some .idle := bracket_closed_iff.mp hbr
    exact ⟨⟨rfl, { h.opens with bracket := sel_bracket hidle, beforeReset := not_beforeReset h.awake }⟩, rfl, rfl⟩

/-- The bytes of a burst stream into the receive buffer, which stays canonical. -/
theorem burstToHost_sound {s : State} (h : s.MayTransact) (n : Nat) : (burstToHost n s).Sound s := by
  have hr : (memRead RadioReg.fifo.addr n s).Sound s := transaction_sound h _ _
  have hbuf := (burstToHost_buffer n s).2 h.opens.buffer
  constructor
  · intro hd
    exact { hr.stuck hd with buffer := hbuf }
  · intro hd
    obtain ⟨hmay, hseq, hsvc⟩ := hr.completed hd
    exact ⟨⟨hmay.free, { hmay.opens with buffer := hbuf }⟩, hseq, hsvc⟩

section InStep
variable {i : Instr} {k : Nat} {s : State}

theorem State.InStep.andThen (h : s.InStep i k) {r : BusRun} (hr : r.Sound s) {f : List Byte → State → State}
    (hf : ∀ got t, t.InStep i k → (f got t).Inv) : (r.andThen f).Inv :=
  hr.andThen fun got t hmay hseq hsvc => hf got t ⟨hmay, hsvc.trans h.outside, hseq.trans h.position⟩

/-- A step that is one transaction keeps the invariant if what follows the completed transaction does. -/
theorem State.InStep.transaction (h : s.InStep i k) {header : Byte} {outs : List Byte}
    {f : List Byte → State → State} (hf : ∀ got t, t.InStep i k → (f got t).Inv) :
    ((transaction header outs s).andThen f).Inv :=
  h.andThen (transaction_sound h.toMayTransact header outs) hf

theorem State.InStep.burst (h : s.InStep i k) {n : Nat} {f : List Byte → State → State}
    (hf : ∀ got t, t.InStep i k → (f got t).Inv) : ((burstToHost n s).andThen f).Inv :=
  h.andThen (burstToHost_sound h.toMayTransact n) hf

theorem State.InStep.modeWrite (h : s.InStep i k) {m : RadioMode} {f : State → State}
    (hf : ∀ t, t.InStep i k → (f t).Inv) : (setModeThen m f s).Inv :=
  h.transaction fun _ _ ht => hf _ ⟨ht.withMode _, ht.outside, ht.position⟩

/-- The command ends. -/
theorem State.InStep.finish (h : s.InStep i k) (r : Result) : (s.finish r).Inv :=
  { h.opens with
    bracket := h.closed
    held := h.not_stuck
    position := nofun
    beforeReset := not_beforeReset h.awake
    configured := nofun
    service := fun hi => absurd (h.outside.symm.trans hi) (by decide)
    masked := nofun
    alone := nofun }

/-- The command goes on to a legal position. -/
theorem State.InStep.advance (h : s.InStep i k) {k' : Nat} (hl : SeqPos.legal false ⟨i, k'⟩ = true) :
    (s.advance i k').Inv :=
  { h.opens with
    bracket := h.closed
    held := h.not_stuck
    position := by
      rintro _ ⟨⟩
      rw [State.advance_cs, h.free]
      exact hl
    beforeReset := not_beforeReset h.awake
    configured := by
      rintro _ ⟨⟩
      exact h.opens.configured k h.position
    service := fun hi => absurd (h.outside.symm.trans hi) (by decide)
    masked := by
      rintro _ ⟨⟩ hp
      exact h.opens.masked _ h.position hp
    alone := fun _ _ _ => h.outside }

end InStep

/-! ### What keeps the invariant between two steps -/

section Inv
variable {s : State}

theorem State.Inv.sampleIrq (h : s.Inv) : (sampleIrq s).Inv := { h with }

theorem State.Inv.decline (h : s.Inv) (d : Decline) : (s.decline d).Inv := { h with }

theorem State.Inv.dropOffer (h : s.Inv) (rest : List (Option Offer)) : ({ s with hostIn := rest } : State).Inv :=
  { h with }

theorem State.Inv.takeOffer (h : s.Inv) (o : Offer) (rest : List (Option Offer)) : (s.takeOffer o rest).Inv :=
  { h with
    buffer := by
      rw [State.takeOffer_rxBuf]
      split
      · rfl
      · exact h.buffer }

theorem State.Inv.clearFlag (h : s.Inv) (k : EventKind) : (s.setFlag k false).Inv := by
  have hbefore (hd : s.resetDone = false) := h.beforeReset hd
  cases k <;> exact { h with beforeReset := fun hd => by simp_all [State.setFlag] }

/-- With no command running the mask is free. -/
theorem State.Inv.setMask (h : s.Inv) (hs : s.seq = none) (b : Bool) : ({ s with irqMask := b } : State).Inv :=
  { h with masked := fun _ hp => absurd (hs.symm.trans hp) nofun }

theorem State.Inv.openMask (h : s.Inv) (hs : s.seq = none) : s.openMask.Inv := { h.setMask hs true with }

/-- The reset pulse on a free bus (41_mode_fsm R166). -/
theorem State.Inv.resetSequence (h : s.Inv) (hcs : s.cs = false) : s.resetSequence.Inv :=
  { h with
    bracket := hcs ▸ bracket_closed_iff.mpr (busPhase_append_resetPulse (h.idle hcs))
    resetLine := rfl
    beforeReset := nofun
    identified := nofun }

/-- An offer taken and answered in the same step, with no transaction. -/
theorem State.Inv.answer (h : s.Inv) (hr : s.ready) (i : Instr) (k : Nat) (r : Result) :
    ((s.accept i k).finish r).Inv := by
  obtain ⟨hcs, -, hseq⟩ := hr
  exact
    { h with
      held := fun hc => absurd (hcs.symm.trans hc) (by decide)
      position := nofun
      beforeReset := fun hd => by simpa [hseq] using h.beforeReset hd
      configured := nofun
      masked := nofun
      alone := nofun }

/-- An offer taken whose first step is a transaction: not before the first reset (41_mode_fsm R171). -/
theorem State.Inv.accept (h : s.Inv) (hr : s.ready) (hd : s.resetDone = true) {i : Instr} {k : Nat}
    (hl : SeqPos.legal true ⟨i, k⟩ = true) (hinit : i ≠ .init)
    (hmask : SeqPos.inRecv ⟨i, k⟩ = true → s.irqMask = true) : (s.accept i k).InStep i k := by
  obtain ⟨hcs, hsvc, -⟩ := hr
  refine ⟨⟨hcs, ?_⟩, hsvc, rfl⟩
  exact
    { h with
      bracket := sel_bracket (h.idle hcs)
      held := fun _ => rfl
      position := by
        rintro _ ⟨⟩
        exact hl
      beforeReset := not_beforeReset hd
      configured := by
        rintro _ ⟨⟩
        exact absurd rfl hinit
      service := fun _ => .inr rfl
      masked := by
        rintro _ ⟨⟩
        exact hmask
      alone := fun _ _ _ => hsvc }

/-- A running command or service on a free bus may start its next transaction. -/
theorem State.Inv.mayTransact (h : s.Inv) (hcs : s.cs = false) (hb : s.busyO = true) : s.MayTransact :=
  ⟨hcs,
    { h with
      bracket := sel_bracket (h.idle hcs)
      held := fun _ => hb
      position := fun p hp => SeqPos.legal_held (h.position p hp)
      beforeReset := not_beforeReset (h.awake_of_busy hb)
      service := fun _ => .inr rfl }⟩

theorem State.Inv.inStep (h : s.Inv) {i : Instr} {k : Nat} (ha : s.atStep i k) : s.InStep i k := by
  obtain ⟨hcs, hsvc, hseq⟩ := ha
  exact ⟨h.mayTransact hcs (by simp [State.busyO, hseq]), hsvc, hseq⟩

end Inv

/-! ### The commands -/

/-- A sequencer step keeps the invariant if the first step of an admitted offer does, and every legal later step. -/
theorem runCommand_keeps {i : Instr} {first : Nat} {gate : State → Option Decline} {body : Nat → State → State}
    {s : State} (h : s.Inv) (start : s.ready → gate s = none → (body first (s.accept i first)).Inv)
    (resume : ∀ k, SeqPos.legal false ⟨i, k⟩ = true → s.InStep i k → (body k s).Inv) :
    (runCommand i first gate body s).Inv := by
  rcases runCommand_cases i first gate body s with he | ⟨-, d, -, he⟩ | ⟨hr, hg, he⟩ | ⟨k, ha, he⟩
  · rw [he]; exact h
  · rw [he]; exact h.decline d
  · rw [he]; exact start hr hg
  · rw [he]
    have hl := h.position _ ha.2.2
    rw [ha.1] at hl
    exact resume k hl (h.inStep ha)

/-- A command whose only step is its first holds no position on a free bus. -/
theorem runCommand_keeps_single {i : Instr} {gate : State → Option Decline} {body : Nat → State → State} {s : State}
    (h : s.Inv) (hl : ∀ k, SeqPos.legal false ⟨i, k⟩ = false)
    (start : s.ready → gate s = none → (body 1 (s.accept i 1)).Inv) : (runCommand i 1 gate body s).Inv :=
  runCommand_keeps h start fun k hk _ => absurd ((hl k).symm.trans hk) (by decide)

theorem busAdmission_none {s : State} (h : busAdmission s = none) : s.resetDone = true := by
  simpa [busAdmission] using h

theorem wrregAdmission_none {a : Addr} {s : State} (h : wrregAdmission a s = none) :
    s.resetDone = true ∧ a ≠ RadioReg.mode.addr ∧ a ≠ RadioReg.irqFlags.addr := by
  simpa [wrregAdmission, ite_eq_iff] using h

theorem rdregAdmission_none {a : Addr} {s : State} (h : rdregAdmission a s = none) :
    s.resetDone = true ∧ a ≠ RadioReg.irqFlags.addr := by
  simpa [rdregAdmission, ite_eq_iff] using h

theorem recvAdmission_none {cap : Half} {s : State} (h : recvAdmission cap s = none) :
    s.resetDone = true ∧ cap ≠ 0 := by
  simpa [recvAdmission, busAdmission, ite_eq_iff, and_comm] using h

section Commands
variable {s : State}

/-- A command of one transaction that only needs the first reset. -/
theorem busCommand_keeps {i : Instr} {body : Nat → State → State} (h : s.Inv)
    (hfree : ∀ k, SeqPos.legal false ⟨i, k⟩ = false) (hheld : SeqPos.legal true ⟨i, 1⟩ = true) (hinit : i ≠ .init)
    (hrecv : SeqPos.inRecv ⟨i, 1⟩ = false) (hbody : ∀ t, t.InStep i 1 → (body 1 t).Inv) :
    (runCommand i 1 busAdmission body s).Inv :=
  runCommand_keeps_single h hfree fun hr hg =>
    hbody _ (h.accept hr (busAdmission_none hg) hheld hinit fun hp => absurd (hrecv.symm.trans hp) (by decide))

theorem wrreg_keeps (h : s.Inv) (a : Addr) (v : Byte) :
    (runCommand (.wrreg a v) 1 (wrregAdmission a) (wrregStep a v) s).Inv := by
  refine runCommand_keeps_single h (fun _ => rfl) fun hr hg => ?_
  obtain ⟨hd, hmode, hflags⟩ := wrregAdmission_none hg
  have hin := h.accept hr hd (i := .wrreg a v) (k := 1) (by simp [SeqPos.legal, hmode, hflags]) nofun nofun
  exact hin.transaction fun _ _ ht => ht.finish _

theorem rdreg_keeps (h : s.Inv) (a : Addr) :
    (runCommand (.rdreg a) 1 (rdregAdmission a) (rdregStep a) s).Inv := by
  refine runCommand_keeps_single h (fun _ => rfl) fun hr hg => ?_
  obtain ⟨hd, hflags⟩ := rdregAdmission_none hg
  have hin := h.accept hr hd (i := .rdreg a) (k := 1) (by simp [SeqPos.legal, hflags]) nofun nofun
  exact hin.transaction fun _ _ ht => ht.finish _

theorem wrfifo_keeps (h : s.Inv) (n : Byte) : (runCommand (.wrfifo n) 1 busAdmission (wrfifoStep n) s).Inv :=
  busCommand_keeps h (fun _ => rfl) rfl nofun rfl fun _ hin => hin.transaction fun _ _ ht => ht.finish _

theorem rdfifo_keeps (h : s.Inv) (n : Byte) : (runCommand (.rdfifo n) 1 busAdmission (rdfifoStep n) s).Inv :=
  busCommand_keeps h (fun _ => rfl) rfl nofun rfl fun _ hin => hin.burst fun _ _ ht => ht.finish _

theorem setmode_keeps (h : s.Inv) (m : RadioMode) : (runCommand (.setmode m) 1 busAdmission (setmodeStep m) s).Inv :=
  busCommand_keeps h (fun _ => rfl) rfl nofun rfl fun _ hin => hin.modeWrite fun _ ht => ht.finish _

theorem reset_keeps (h : s.Inv) : (runCommand .reset 1 openAdmission resetStep s).Inv :=
  runCommand_keeps_single h (fun _ => rfl) fun hr _ => (h.resetSequence hr.1).answer hr .reset 1 ⟨0, .ok⟩

theorem irqmask_keeps (h : s.Inv) (b : Bool) : (runCommand (.irqmask b) 1 openAdmission (irqmaskStep b) s).Inv :=
  runCommand_keeps_single h (fun _ => rfl) fun hr _ => (h.setMask hr.2.2 b).answer hr (.irqmask b) 1 ⟨0, .ok⟩

/-- Clearing a flag answers an offer: EVTAKE and EVCLEAR. -/
theorem clearFlag_answer (h : s.Inv) (hr : s.ready) (i : Instr) (k : EventKind) (r : Result) :
    (((s.accept i 1).setFlag k false).finish r).Inv := by
  have hswap : (s.accept i 1).setFlag k false = (s.setFlag k false).accept i 1 := by cases k <;> rfl
  rw [hswap]
  exact (h.clearFlag k).answer (by simpa [State.ready] using hr) i 1 r

theorem evtake_keeps (h : s.Inv) (k : EventKind) : (runCommand (.evtake k) 1 openAdmission (evtakeStep k) s).Inv :=
  runCommand_keeps_single h (fun _ => rfl) fun hr _ => clearFlag_answer h hr _ k _

theorem evclear_keeps (h : s.Inv) (k : EventKind) : (runCommand (.evclear k) 1 openAdmission (evclearStep k) s).Inv :=
  runCommand_keeps_single h (fun _ => rfl) fun hr _ => clearFlag_answer h hr _ k _

theorem evpeek_keeps (h : s.Inv) (k : EventKind) : (runCommand (.evpeek k) 1 openAdmission (evpeekStep k) s).Inv :=
  runCommand_keeps_single h (fun _ => rfl) fun hr _ => h.answer hr _ 1 _

/-! ### INIT -/

/-- Step 0 of INIT: the configuration taken, the radio reset, step 1 next (42_radio_driver R181). -/
theorem initStep_zero_keeps (h : s.Inv) (hr : s.ready) : (initStep 0 (s.accept .init 0)).Inv := by
  obtain ⟨hcs, hsvc, -⟩ := hr
  exact
    { h.resetSequence hcs with
      held := fun _ => rfl
      position := by
        rintro _ ⟨⟩
        rfl
      beforeReset := nofun
      identified := nofun
      configured := fun _ _ => rfl
      masked := by
        rintro _ ⟨⟩ hp
        cases hp
      alone := fun _ _ _ => hsvc }

/-- INIT works with an applied configuration, so its identity check may pass (10_state R22). -/
theorem identityCheck_keeps {k : Nat} (h : s.InStep .init k) (v : Byte) : (identityCheck v s).Inv := by
  have hcfg : s.cfg.isSome = true := h.opens.configured k h.position
  unfold identityCheck
  split
  · exact { h.finish ⟨0, .ok⟩ with beforeReset := not_beforeReset h.awake, identified := fun _ => hcfg }
  · exact { h.finish ⟨v, .hardwareAbsent⟩ with beforeReset := not_beforeReset h.awake, identified := nofun }

/-- Steps 3 to 12 of INIT are one register write each (42_radio_driver R181). -/
theorem initStep_write {k : Nat} (hlo : 3 ≤ k) (hhi : k ≤ 12) (s : State) :
    ∃ r v, initStep k s = (memWrite (RadioReg.addr r) [v] s).andThen fun _ t => t.advance .init (k + 1) := by
  interval_cases k <;> exact ⟨_, _, rfl⟩

theorem initStep_keeps {k : Nat} (hl : SeqPos.legal false ⟨.init, k⟩ = true) (h : s.InStep .init k) :
    (initStep k s).Inv := by
  obtain ⟨hlo, hhi⟩ := SeqPos.legal_init.mp hl
  obtain rfl | rfl | rfl | ⟨h3, h12⟩ : k = 1 ∨ k = 2 ∨ k = 13 ∨ (3 ≤ k ∧ k ≤ 12) := by omega
  · exact h.modeWrite fun _ ht => ht.advance rfl
  · exact h.modeWrite fun _ ht => ht.advance rfl
  · exact h.transaction fun _ _ ht => identityCheck_keeps ht _
  · obtain ⟨r, v, hwrite⟩ := initStep_write h3 h12 s
    rw [hwrite]
    exact h.transaction fun _ _ ht => ht.advance (SeqPos.legal_init.mpr (by omega))

theorem init_keeps (h : s.Inv) : (runCommand .init 0 openAdmission initStep s).Inv :=
  runCommand_keeps h (fun hr _ => initStep_zero_keeps h hr) fun _ hl hin => initStep_keeps hl hin

/-! ### SEND and RECV -/

/-- Step 1 of SEND, after the length test (42_radio_driver R185). -/
theorem sendStep_one_keeps (h : s.Inv) (hr : s.ready) (hd : s.resetDone = true) (len : Half) :
    (sendStep len 1 (s.accept (.send len) 1)).Inv := by
  simp only [sendStep]
  split
  · exact h.answer hr _ 1 _
  · next hlen =>
    have hle : len.toNat ≤ Config.maxPayload := by omega
    have hin := h.accept hr hd (SeqPos.legal_send.mpr ⟨hle, le_refl 1, by decide⟩) nofun nofun
    exact hin.modeWrite fun _ ht => ht.advance (SeqPos.legal_send.mpr ⟨hle, le_refl 2, by decide⟩)

theorem sendStep_keeps {len : Half} {k : Nat} (hl : SeqPos.legal false ⟨.send len, k⟩ = true)
    (h : s.InStep (.send len) k) : (sendStep len k s).Inv := by
  obtain ⟨hle, hlo, hhi⟩ := SeqPos.legal_send.mp hl
  have hnext {k' : Nat} (h' : 2 ≤ k' ∧ k' ≤ 5) := SeqPos.legal_send (held := false).mpr ⟨hle, h'⟩
  obtain rfl | rfl | rfl | rfl : k = 2 ∨ k = 3 ∨ k = 4 ∨ k = 5 := by
    rw [if_neg Bool.false_ne_true] at hlo
    omega
  · exact h.transaction fun _ _ ht => ht.advance (hnext (by decide))
  · exact h.transaction fun _ _ ht => ht.advance (hnext (by decide))
  · exact h.transaction fun _ _ ht => ht.advance (hnext (by decide))
  · exact h.modeWrite fun _ ht => ht.finish _

theorem send_keeps (h : s.Inv) (len : Half) : (runCommand (.send len) 1 busAdmission (sendStep len) s).Inv :=
  runCommand_keeps h (fun hr hg => sendStep_one_keeps h hr (busAdmission_none hg) len) fun _ hl hin =>
    sendStep_keeps hl hin

theorem State.InStep.withRecvPtr {i : Instr} {k : Nat} (h : s.InStep i k) (p : Byte) :
    ({ s with recvPtr := p } : State).InStep i k :=
  ⟨⟨h.free, { h.opens with }⟩, h.outside, h.position⟩

theorem recvLength_inStep {i : Instr} {k : Nat} (h : s.InStep i k) (cap : Half) (len : Byte) :
    (recvLength cap len s).InStep i k := by
  have hlen : ({ s with recvLen := len } : State).MayTransact := ⟨h.free, { h.opens with }⟩
  unfold recvLength
  split
  · exact ⟨hlen.diag .truncatedReceive, h.outside, h.position⟩
  · exact ⟨hlen, h.outside, h.position⟩

/-- RECV closes its bracket as it ends, so the mask it restores no longer matters (42_radio_driver R187). -/
theorem recvEnd_keeps {i : Instr} {k : Nat} (h : s.InStep i k) (cap : Half) : (recvEnd cap s).Inv :=
  (h.finish _).setMask rfl s.maskOld

/-- Step 1 of RECV: the bracket opened and the event taken before the bus is used (42_radio_driver R187, R189). -/
theorem recvStep_one_keeps (h : s.Inv) (hr : s.ready) (hd : s.resetDone = true) {cap : Half} (hcap : cap ≠ 0) :
    (recvStep cap 1 (s.accept (.recv cap) 1)).Inv := by
  simp only [recvStep]
  split
  · have hin : ((s.openMask.setFlag .rxDone false).accept (.recv cap) 1).InStep (.recv cap) 1 :=
      ((h.openMask hr.2.2).clearFlag .rxDone).accept hr hd (SeqPos.legal_recv.mpr ⟨hcap, le_refl 1, by decide⟩) nofun
        fun _ => rfl
    exact hin.transaction fun _ _ ht =>
      (recvLength_inStep ht cap _).advance (SeqPos.legal_recv.mpr ⟨hcap, le_refl 2, by decide⟩)
  · exact h.answer hr _ 1 _

theorem recvStep_keeps {cap : Half} {k : Nat} (hl : SeqPos.legal false ⟨.recv cap, k⟩ = true)
    (h : s.InStep (.recv cap) k) : (recvStep cap k s).Inv := by
  obtain ⟨hcap, hlo, hhi⟩ := SeqPos.legal_recv.mp hl
  have hnext {k' : Nat} (h' : 2 ≤ k' ∧ k' ≤ 4) := SeqPos.legal_recv (held := false).mpr ⟨hcap, h'⟩
  obtain rfl | rfl | rfl : k = 2 ∨ k = 3 ∨ k = 4 := by
    rw [if_neg Bool.false_ne_true] at hlo
    omega
  · exact h.transaction fun _ _ ht => (ht.withRecvPtr _).advance (hnext (by decide))
  · exact h.transaction fun _ _ ht => ht.advance (hnext (by decide))
  · exact h.burst fun _ _ ht => recvEnd_keeps ht cap

theorem recv_keeps (h : s.Inv) (cap : Half) :
    (runCommand (.recv cap) 1 (recvAdmission cap) (recvStep cap) s).Inv := by
  refine runCommand_keeps h (fun hr hg => ?_) fun _ hl hin => recvStep_keeps hl hin
  obtain ⟨hd, hcap⟩ := recvAdmission_none hg
  exact recvStep_one_keeps h hr hd hcap

/-! ### The interrupt service -/

/-- The first transaction of the service: its byte is held, or the transfer stuck (43_event_decoder R202). -/
theorem serviceRead_keeps (h : s.MayTransact) (hsvc : s.inService = true)
    (hpos : ∀ p, s.seq = some p → p.legal false = true) : (serviceRead s).Inv := by
  refine (transaction_sound h _ _).andThen fun got t hmay hseq hin => ?_
  exact
    { hmay.opens with
      bracket := hmay.closed
      held := hmay.not_stuck
      position := fun p hp => (congrArg (SeqPos.legal · p) hmay.free).trans (hpos p (hseq.symm.trans hp))
      beforeReset := not_beforeReset hmay.awake
      service := fun _ => .inl rfl
      noService := fun hn => absurd ((hin.trans hsvc).symm.trans hn) (by decide) }

/-- The second transaction of the service, and its end. -/
theorem serviceClear_keeps (h : s.MayTransact) (hpos : ∀ p, s.seq = some p → p.legal false = true) (f : Byte) :
    (serviceClear f s).Inv := by
  refine (transaction_sound h _ _).andThen fun got t hmay hseq _ => ?_
  have hkept : (applyEvent (decodeEvent f) t).seq = s.seq := by rw [applyEvent_eq]; exact hseq
  exact (hmay.applyEvent (decodeEvent f)).leaveService (hkept ▸ hpos)

/-- No command that holds the service off is running when it starts (43_event_decoder R201). -/
theorem State.Inv.enterService (h : s.Inv) (hm : s.serviceMayStart = true) : s.enterService.MayTransact := by
  obtain ⟨hd, hcs, -, -, -, hallow⟩ := (serviceMayStart_iff s).mp hm
  refine ⟨hcs, ?_⟩
  exact
    { h with
      bracket := sel_bracket (h.idle hcs)
      held := fun _ => by simp [State.busyO]
      position := fun p hp => SeqPos.legal_held (h.position p hp)
      beforeReset := not_beforeReset hd
      service := fun _ => .inr rfl
      noService := nofun
      alone := by
        rintro ⟨i, k⟩ hp hrecv
        have hs : s.seq = some ⟨i, k⟩ := hp
        rw [hs] at hallow
        cases i <;> cases hrecv
        cases hallow }

theorem irqsvcStep_keeps (h : s.Inv) : (irqsvcStep s).Inv := by
  cases hcs : s.cs with
  | true => simpa [irqsvcStep, hcs] using h
  | false =>
    have hpos : ∀ p, s.seq = some p → p.legal false = true := fun p hp => hcs ▸ h.position p hp
    cases hsvc : s.inService with
    | true =>
      have hmay := h.mayTransact hcs (by simp [State.busyO, hsvc])
      have hflags : s.svcFlags.isSome = true := by simpa [hcs] using h.service hsvc
      obtain ⟨f, hf⟩ := Option.isSome_iff_exists.mp hflags
      simpa [irqsvcStep, hcs, hsvc, hf] using serviceClear_keeps hmay hpos f
    | false =>
      cases hm : s.serviceMayStart with
      | true =>
        simpa [irqsvcStep, hcs, hsvc, hm] using serviceRead_keeps (h.enterService hm) rfl hpos
      | false => simpa [irqsvcStep, hcs, hsvc, hm] using h

end Commands

/-! ### The instructions the main context runs -/

/-- The commands that are their own words: every instruction but the pseudo-commands (30_encoding R127), the frames and
IRQSVC. -/
def isHostCommand : Instr → Bool
  | .sleep | .standby | .listen | .w1 _ _ | .r1 _ _ | .wb _ | .rb _ | .irqsvc => false
  | _ => true

theorem decodeBare_ok {i j : Instr} {a : Byte} {w : Half} (h : decodeBare i a w = .ok j) : j = i := by
  unfold decodeBare at h
  split at h <;> cases h
  rfl

theorem decodeKind_ok {f : EventKind → Instr} {j : Instr} {a : Byte} {w : Half} (h : decodeKind f a w = .ok j) :
    ∃ k, j = f k := by
  unfold decodeKind at h
  split at h
  · split at h <;> cases h
    exact ⟨_, rfl⟩
  · cases h

theorem decodeMode_ok {j : Instr} {a : Byte} {w : Half} (h : decodeMode a w = .ok j) : ∃ m, j = .setmode m := by
  unfold decodeMode at h
  split at h
  · split at h <;> cases h
    exact ⟨_, rfl⟩
  · cases h

theorem isHostCommand_of_decodeCommand {c : CmdWord} {i : Instr} (h : decodeCommand c = .ok i) :
    isHostCommand i = true := by
  unfold decodeCommand decodeFields at h
  split at h
  -- RESET and INIT
  case h_5 | h_6 => rw [decodeBare_ok h]; rfl
  -- SETMODE
  case h_7 => obtain ⟨m, rfl⟩ := decodeMode_ok h; rfl
  -- EVTAKE, EVCLEAR, EVPEEK
  case h_10 | h_11 | h_12 => obtain ⟨k, rfl⟩ := decodeKind_ok h; rfl
  -- the rows whose operands are tested in place, and the ops not listed
  all_goals (repeat' split at h) <;> cases h <;> rfl

theorem SeqPos.isHostCommand_of_legal {p : SeqPos} {held : Bool} (h : p.legal held = true) :
    isHostCommand p.cmd = true := by
  obtain ⟨i, k⟩ := p
  cases i with
  | sleep | standby | listen | w1 | r1 | wb | rb | irqsvc => cases h
  | _ => rfl

theorem next_keeps {u t : State} (hu : u.Inv) (h : (.next u : Host.Outcome State Fault Refusal) = .next t) : t.Inv := by
  cases h
  exact hu

theorem exec_keeps {i : Instr} {s t : State} (hi : isHostCommand i = true) (h : s.Inv) (he : exec i s = .next t) :
    t.Inv := by
  cases i with
  | wrreg a v => exact next_keeps (wrreg_keeps h a v) he
  | rdreg a => exact next_keeps (rdreg_keeps h a) he
  | wrfifo n => exact next_keeps (wrfifo_keeps h n) he
  | rdfifo n => exact next_keeps (rdfifo_keeps h n) he
  | reset => exact next_keeps (reset_keeps h) he
  | init => exact next_keeps (init_keeps h) he
  | setmode m => exact next_keeps (setmode_keeps h m) he
  | send len => exact next_keeps (send_keeps h len) he
  | recv cap => exact next_keeps (recv_keeps h cap) he
  | evtake k => exact next_keeps (evtake_keeps h k) he
  | evclear k => exact next_keeps (evclear_keeps h k) he
  | evpeek k => exact next_keeps (evpeek_keeps h k) he
  | irqmask b => exact next_keeps (irqmask_keeps h b) he
  | sleep | standby | listen | w1 | r1 | wb | rb | irqsvc => cases hi

/-! ### The step -/

/-- The offer at the port: none, one turned away, or a command whose side inputs are in place (10_state R34). -/
theorem fetchOffer_keeps {s : State} (h : s.Inv) :
    (fetchOffer s).2.Inv ∧ ∀ i, (fetchOffer s).1 = some i → isHostCommand i = true := by
  unfold fetchOffer
  split
  · exact ⟨h, nofun⟩
  · exact ⟨h.dropOffer _, nofun⟩
  · next o rest _ =>
    split
    · next i hi =>
      refine ⟨h.takeOffer o rest, ?_⟩
      rintro _ ⟨⟩
      exact isHostCommand_of_decodeCommand hi
    · exact ⟨(h.takeOffer o rest).decline _, nofun⟩

/-- The arbiter gives the step to nobody, to the service or to a host command, from a state with the invariant. -/
theorem arbitrate_keeps {s : State} (h : s.Inv) :
    (arbitrate s).2.Inv ∧ ∀ i, (arbitrate s).1 = some i → i = .irqsvc ∨ isHostCommand i = true := by
  rcases arbitrate_cases s with ⟨-, he⟩ | ⟨-, -, he⟩ |
    ⟨hcs, -, -, ⟨bytes, hb, -⟩ | ⟨-, p, hp, he⟩ | ⟨-, -, he⟩⟩
  · rw [he]; exact ⟨h, nofun⟩
  · rw [he]; exact ⟨h, fun i hi => .inl (Option.some.inj hi).symm⟩
  · rw [h.noFrame] at hb; cases hb
  · rw [he]
    refine ⟨h, ?_⟩
    rintro _ ⟨⟩
    exact .inr (SeqPos.isHostCommand_of_legal (h.position p hp))
  · rw [he]
    obtain ⟨hkept, hcmd⟩ := fetchOffer_keeps h
    exact ⟨hkept, fun i hi => .inr (hcmd i hi)⟩

/-- Settles O13: the line is sampled, the arbiter gives the step to the service or to one host command, and each of them
keeps the invariant. -/
theorem everyStepKeepsTheInvariant : Obligations.EveryStepKeepsTheInvariant := by
  intro s t h hstep
  obtain ⟨hkept, hgets⟩ := arbitrate_keeps h.sampleIrq
  unfold step at hstep
  split at hstep
  · next i u he =>
    rw [he] at hkept hgets
    rcases hgets i rfl with rfl | hi
    · exact next_keeps (irqsvcStep_keeps hkept) hstep
    · exact exec_keeps hi hkept hstep
  · next u he =>
    rw [he] at hkept
    exact next_keeps hkept hstep

end Sys2Proof.Machine
end

section
/-! The rows of 30_encoding R122 against the decoder (R121 to R123). A row's mask leaves the low bits of each operand field
free, so matching it pins `op` and bounds `a` and `w`: the tests the decoder makes. Each row is compared with the decoder's
arm for its `op`, and whatever the decoder accepts carries the name of the row with that `op`. -/

namespace Sys2Proof

/-! ### A command word and its fields (R120) -/

@[simp] theorem opField_commandWord (op a : Byte) (w : Half) : opField (commandWord op a w) = op :=
  (BitVec.extractLsb'_append_eq_of_le (by decide)).trans BitVec.extractLsb'_append_eq_left

@[simp] theorem aField_commandWord (op a : Byte) (w : Half) : aField (commandWord op a w) = a :=
  (BitVec.extractLsb'_append_eq_of_le (by decide)).trans BitVec.extractLsb'_append_eq_right

@[simp] theorem wField_commandWord (op a : Byte) (w : Half) : wField (commandWord op a w) = w :=
  BitVec.extractLsb'_append_eq_right

theorem commandWord_fields (c : CmdWord) : commandWord (opField c) (aField c) (wField c) = c := by
  have hupper : opField c ++ aField c = c.extractLsb' 16 16 :=
    BitVec.extractLsb'_append_extractLsb'_eq_extractLsb' rfl
  rw [commandWord, hupper]
  exact BitVec.extractLsb'_append_extractLsb'

theorem opField_and (c m : CmdWord) : opField (c &&& m) = opField c &&& opField m := BitVec.extractLsb'_and

theorem commandWord_inj {op op' a a' : Byte} {w w' : Half} :
    commandWord op a w = commandWord op' a' w' ↔ op = op' ∧ a = a' ∧ w = w' := by
  refine ⟨fun h => ⟨?_, ?_, ?_⟩, fun ⟨hop, ha, hw⟩ => by rw [hop, ha, hw]⟩
  · simpa using congrArg opField h
  · simpa using congrArg aField h
  · simpa using congrArg wField h

/-- A mask acts on each field by itself. -/
theorem and_commandWord (c : CmdWord) (op a : Byte) (w : Half) :
    c &&& commandWord op a w = commandWord (opField c &&& op) (aField c &&& a) (wField c &&& w) := by
  calc c &&& commandWord op a w
      = commandWord (opField c) (aField c) (wField c) &&& commandWord op a w := by rw [commandWord_fields]
    _ = ((opField c ++ aField c) &&& (op ++ a)) ++ (wField c &&& w) := BitVec.and_append
    _ = commandWord (opField c &&& op) (aField c &&& a) (wField c &&& w) := by rw [BitVec.and_append]; rfl

/-! ### The rows by their fields (R122) -/

/-- The mask that leaves the low `k` bits of a field free and requires the others to be 0. -/
def highMask (n k : Nat) : BitVec n := BitVec.allOnes n <<< k

theorem and_highMask_eq_zero {n : Nat} (x : BitVec n) (k : Nat) : x &&& highMask n k = 0 ↔ x.toNat < 2 ^ k := by
  have hle : x.toNat / 2 ^ k * 2 ^ k < 2 ^ n := (Nat.div_mul_le_self _ _).trans_lt x.isLt
  rw [highMask, ← BitVec.shiftLeft_ushiftRight, BitVec.toNat_eq, BitVec.toNat_shiftLeft, BitVec.toNat_ushiftRight,
    Nat.shiftRight_eq_div_pow, Nat.shiftLeft_eq, Nat.mod_eq_of_lt hle]
  simp [Nat.div_eq_zero_iff]

/-- With no free bit the field is 0. -/
theorem toNat_lt_two_pow_zero {n : Nat} (x : BitVec n) : x.toNat < 2 ^ 0 ↔ x = 0 := by
  simp [BitVec.toNat_eq]

/-- A field all of whose bits are free is not bounded. -/
theorem toNat_lt_two_pow_width {n : Nat} (x : BitVec n) : x.toNat < 2 ^ n ↔ True := iff_true_intro x.isLt

/-- A row that fixes `op`, leaves the low `ka` bits of `a` and the low `kw` bits of `w` free, and has the side condition
`side`. -/
def fieldRow (name : String) (op : Byte) (ka kw : Nat) (side : CmdWord → Bool) : MatchRow :=
  ⟨name, commandWord op 0 0, commandWord (BitVec.allOnes 8) (highMask 8 ka) (highMask 16 kw), side⟩

theorem hits_fieldRow (name : String) (op : Byte) (ka kw : Nat) (side : CmdWord → Bool) (c : CmdWord) :
    (fieldRow name op ka kw side).hits c = true ↔
      opField c = op ∧ ((aField c).toNat < 2 ^ ka ∧ (wField c).toNat < 2 ^ kw) ∧ side c = true := by
  simp only [MatchRow.hits, fieldRow, and_commandWord, Bool.and_eq_true, beq_iff_eq, commandWord_inj,
    BitVec.and_allOnes, and_highMask_eq_zero, and_assoc]

theorem matchTable_eq_fieldRows : matchTable =
    [ fieldRow "WRREG" 0x01 7 8 fun _ => true,
      fieldRow "RDREG" 0x02 7 0 fun _ => true,
      fieldRow "WRFIFO" 0x03 0 8 fun _ => true,
      fieldRow "RDFIFO" 0x04 0 8 fun _ => true,
      fieldRow "RESET" 0x10 0 0 fun _ => true,
      fieldRow "INIT" 0x11 0 0 fun _ => true,
      fieldRow "SETMODE" 0x12 3 0 fun c => [0, 1, 3, 5].contains (c.extractLsb' 16 3),
      fieldRow "SEND" 0x13 0 16 fun _ => true,
      fieldRow "RECV" 0x14 0 16 fun c => c.extractLsb' 0 16 != 0,
      fieldRow "EVTAKE" 0x20 2 0 fun c => c.extractLsb' 16 2 != 0,
      fieldRow "EVCLEAR" 0x21 2 0 fun c => c.extractLsb' 16 2 != 0,
      fieldRow "EVPEEK" 0x22 2 0 fun c => c.extractLsb' 16 2 != 0,
      fieldRow "IRQMASK" 0x23 1 0 fun _ => true ] := rfl

theorem opField_of_hits {r : MatchRow} (hr : r ∈ matchTable) {c : CmdWord} (h : r.hits c = true) :
    opField c = opField r.word := by
  have hmask : ∀ r ∈ matchTable, opField r.mask = BitVec.allOnes 8 := by decide
  obtain ⟨hword, -⟩ : c &&& r.mask = r.word ∧ r.side c = true := by
    simpa only [MatchRow.hits, Bool.and_eq_true, beq_iff_eq] using h
  rw [← hword, opField_and, hmask r hr, BitVec.and_allOnes]

/-- No two rows carry the same name. -/
theorem matchTable_names_nodup : (matchTable.map MatchRow.name).Nodup := by decide

/-! ### What the decoder's arms read -/

/-- The decoder's answer is an instruction of this name. -/
def Reads (name : String) (answer : Except Reject Instr) : Prop := ∃ i, answer = .ok i ∧ i.commandName = some name

section Reads
variable {n name : String} {i : Instr} {e : Reject} {p : Prop} [Decidable p] {answer : Except Reject Instr}

theorem reads_ok (hi : i.commandName = some name) : Reads n (.ok i) ↔ n = name := by
  simp [Reads, hi, eq_comm]

theorem not_reads_error : ¬ Reads n (.error e) := nofun

theorem reads_ite_error : Reads n (if p then answer else .error e) ↔ Reads n answer ∧ p := by
  split <;> simp [not_reads_error, *]

/-- An arm that tests its operands in place. -/
theorem reads_guarded (hi : i.commandName = some name) : Reads n (if p then .ok i else .error e) ↔ n = name ∧ p :=
  reads_ite_error.trans (and_congr_left' (reads_ok hi))

/-- An arm that tests its operands in place and then a field for a value it turns away. -/
theorem reads_guarded_twice {q : Prop} [Decidable q] {e' : Reject} (hi : i.commandName = some name) :
    Reads n (if p then (if q then .error e' else .ok i) else .error e) ↔ n = name ∧ p ∧ ¬ q := by
  rw [reads_ite_error, ← ite_not, reads_guarded hi, and_assoc, and_comm (a := ¬ q)]

variable {a : Byte} {w : Half}

theorem reads_decodeKind {f : EventKind → Instr} (hf : ∀ k, (f k).commandName = some name) :
    Reads n (decodeKind f a w) ↔ n = name ∧ (a.toNat < 4 ∧ w = 0) ∧ a.setWidth 2 ≠ 0 := by
  have hkind : ∀ k : BitVec 2, kindOfCode k = none ↔ k = 0 := by decide
  rw [decodeKind, reads_ite_error, Ne, ← hkind]
  split
  · next k hk => simp [reads_ok (hf k), hk]
  · next hk => simp [not_reads_error, hk]

theorem reads_decodeMode : Reads n (decodeMode a w) ↔
    n = "SETMODE" ∧ (a.toNat < 8 ∧ w = 0) ∧ [0, 1, 3, 5].contains (a.setWidth 3) = true := by
  have hmode : ∀ m : BitVec 3, (modeOfCode m).isSome = [0, 1, 3, 5].contains m := by decide
  rw [decodeMode, reads_ite_error, ← hmode]
  split
  · next m hm => simp [reads_ok (i := .setmode m) rfl, hm]
  · next hm => simp [not_reads_error, hm]

end Reads

/-! ### Row against arm -/

/-- On the words with a row's `op` the decoder reads the row's name only, and makes the row's tests. -/
theorem reads_iff_of_opField {r : MatchRow} (hr : r ∈ matchTable) {c : CmdWord} (hop : opField c = opField r.word)
    (n : String) : Reads n (decodeCommand c) ↔ n = r.name ∧ r.hits c = true := by
  have hside {k : Nat} (hk : k ≤ 8) : c.extractLsb' 16 k = (aField c).setWidth k :=
    (BitVec.setWidth_extractLsb'_of_le hk).symm
  rw [matchTable_eq_fieldRows] at hr
  simp only [List.mem_cons, List.not_mem_nil, or_false] at hr
  rcases hr with rfl | rfl | rfl | rfl | rfl | rfl | rfl | rfl | rfl | rfl | rfl | rfl | rfl
  all_goals
    replace hop := hop.trans (opField_commandWord ..)
    rw [hits_fieldRow, decodeCommand, hop]
    simp only [toNat_lt_two_pow_zero, toNat_lt_two_pow_width, true_and, and_true, hside, Nat.reduceLeDiff, bne_iff_ne]
  -- WRREG, RDREG, WRFIFO, RDFIFO, RESET, INIT
  iterate 6 exact reads_guarded rfl
  -- SETMODE
  · exact reads_decodeMode
  -- SEND
  · exact reads_guarded rfl
  -- RECV
  · exact reads_guarded_twice rfl
  -- EVTAKE, EVCLEAR, EVPEEK
  iterate 3 exact reads_decodeKind fun _ => rfl
  -- IRQMASK
  · exact reads_guarded rfl

/-- The `op` values that `decodeFields` lists are the table's. -/
theorem op_mem_matchTable_of_decodeFields {op a : Byte} {w : Half} {i : Instr} (h : decodeFields op a w = .ok i) :
    op.toNat ∈ matchTable.map fun r => (opField r.word).toNat := by
  unfold decodeFields at h
  split at h
  case h_14 => cases h
  all_goals next hop => rw [hop]; decide

/-- Settles O5: a word that hits a row has its `op`, and one the decoder accepts has some row's `op`; on the words of one
`op` the row and the decoder make the same tests, and no two rows share a name. -/
theorem wordIsRowsCommandByMatchAndMask : Obligations.WordIsRowsCommandByMatchAndMask := by
  intro r hr c
  change r.hits c = true ↔ Reads r.name (decodeCommand c)
  constructor
  · intro hhits
    exact (reads_iff_of_opField hr (opField_of_hits hr hhits) _).mpr ⟨rfl, hhits⟩
  · rintro ⟨i, hi, hname⟩
    obtain ⟨r', hr', hop⟩ := List.mem_map.mp (op_mem_matchTable_of_decodeFields hi)
    obtain ⟨hsame, hhits⟩ := (reads_iff_of_opField hr' (BitVec.eq_of_toNat_eq hop.symm) _).mp ⟨i, hi, hname⟩
    rwa [List.inj_on_of_nodup_map matchTable_names_nodup hr hr' hsame]

end Sys2Proof
end

section
/-! The Radio Driver's frequency law, the length test of SEND, and RECV's event test and clamp (42_radio_driver R180, R185,
R187 to R189). RECV touches the receive buffer only in the burst of its step 4, whose length is the clamp. -/

namespace Sys2Proof.Machine

/-! ### The frequency word (R180) -/

theorem toNat_frfWord (f : BitVec 32) : (frfWord f).toNat = f.toNat * 2 ^ 19 / 32000000 % 2 ^ 24 :=
  BitVec.toNat_ofNat _ _

/-- The shift and the divisor of the law share the factor 2^11. -/
theorem frequency_quotient_eq (n : Nat) : n * 2 ^ 19 / 32000000 = n * 256 / 15625 := by
  calc n * 2 ^ 19 / 32000000
      = n * 256 * 2 ^ 11 / (15625 * 2 ^ 11) := congrArg (· / 32000000) (Nat.mul_assoc n 256 (2 ^ 11)).symm
    _ = n * 256 / 15625 := Nat.mul_div_mul_right _ _ (by decide)

theorem append_bytes_eq (w : BitVec 24) : w.extractLsb' 16 8 ++ w.extractLsb' 8 8 ++ w.extractLsb' 0 8 = w := by
  have hupper : w.extractLsb' 16 8 ++ w.extractLsb' 8 8 = w.extractLsb' 8 16 :=
    BitVec.extractLsb'_append_extractLsb'_eq_extractLsb' rfl
  rw [hupper]
  exact BitVec.extractLsb'_append_extractLsb'

/-- Settles O30: the law is the definition's, its equivalent form cancels the common factor, and the three bytes are
adjacent slices of the word. -/
theorem frequencyWordLaw : Obligations.FrequencyWordLaw := by
  refine ⟨fun f => ⟨toNat_frfWord f, ?_⟩, fun c => append_bytes_eq (frfWord c.frequency), ?_⟩
  · rw [toNat_frfWord, frequency_quotient_eq]
  · decide

/-! ### SEND -/

/-- SEND as the machine runs it. -/
theorem exec_send (len : Half) (s : State) :
    exec (.send len) s = .next (runCommand (.send len) 1 busAdmission (sendStep len) s) := rfl

theorem busAdmission_of_resetDone {s : State} (hd : s.resetDone = true) : busAdmission s = none := by
  simp [busAdmission, hd]

theorem sendStep_one_oversized {len : Half} (h : 255 < len.toNat) (s : State) :
    sendStep len 1 s = s.raiseOversizedPayload := if_pos h

/-- Settles O38: the offer is taken and the length test ends it at once. -/
theorem sendRejectsOversizedPayloads : Obligations.SendRejectsOversizedPayloads := by
  intro s len hready hd hlen
  rw [exec_send, runCommand_offer hready (busAdmission_of_resetDone hd), sendStep_one_oversized hlen]
  rfl

/-! ### The steps of RECV -/

/-- RECV as the machine runs it. -/
theorem exec_recv (cap : Half) (s : State) :
    exec (.recv cap) s = .next (runCommand (.recv cap) 1 (recvAdmission cap) (recvStep cap) s) := rfl

theorem recvAdmission_of_resetDone {cap : Half} {s : State} (hcap : cap ≠ 0) (hd : s.resetDone = true) :
    recvAdmission cap s = none := by
  rw [recvAdmission, if_neg hcap, busAdmission_of_resetDone hd]

theorem exec_recv_offer {cap : Half} {s : State} (hcap : cap ≠ 0) (hready : s.ready) (hd : s.resetDone = true) :
    exec (.recv cap) s = .next (recvStep cap 1 (s.accept (.recv cap) 1)) := by
  rw [exec_recv, runCommand_offer hready (recvAdmission_of_resetDone hcap hd)]

theorem exec_recv_atStep {cap : Half} {k : Nat} {s : State} (h : s.atStep (.recv cap) k) :
    exec (.recv cap) s = .next (recvStep cap k s) := by
  rw [exec_recv, runCommand_resume h]

theorem recvStep_one_of_no_event {cap : Half} {s : State} (h : s.evRx = false) :
    recvStep cap 1 s = s.finish ⟨0, .none⟩ := by
  simp [recvStep, h]

theorem recvStep_one_of_event {cap : Half} {s : State} (h : s.evRx = true) :
    recvStep cap 1 s =
      (memRead RadioReg.rxNbBytes.addr 1 (s.openMask.setFlag .rxDone false)).andThen fun got t =>
        (recvLength cap (firstByte got) t).advance (.recv cap) 2 := if_pos h

/-- Settles O43: the offer is taken and the event test ends it at once. -/
theorem recvWithoutAnEventReturnsNone : Obligations.RecvWithoutAnEventReturnsNone := by
  intro s cap hready hd hcap hev
  have hev' : (s.accept (.recv cap) 1).evRx = false := hev
  rw [exec_recv_offer hcap hready hd, recvStep_one_of_no_event hev']
  rfl

/-! ### The clamp (R188) -/

theorem truncates_iff {len : Byte} {cap : Half} : truncates len cap = true ↔ cap.toNat ≤ len.toNat := decide_eq_true_iff

theorem clampLen_eq_min (len : Byte) (cap : Half) : clampLen len cap = min len.toNat (cap.toNat - 1) := by
  rw [clampLen]
  split
  · next h => rw [truncates_iff] at h; omega
  · next h => rw [truncates_iff] at h; omega

theorem clampLen_le (len : Byte) (cap : Half) : clampLen len cap ≤ cap.toNat - 1 :=
  (clampLen_eq_min len cap).trans_le (min_le_right _ _)

/-- RECV keeps the length, and the diagnostic comes exactly when it truncates (42_radio_driver R187). -/
theorem recvLength_eq (cap : Half) (len : Byte) (s : State) :
    recvLength cap len s =
      { s with
        recvLen := len
        trace := s.trace ++ if cap.toNat ≤ len.toNat then [.diag .truncatedReceive] else [] } := by
  by_cases h : cap.toNat ≤ len.toNat
  · simp [recvLength, truncates, h, State.diag, State.emit]
  · simp [recvLength, truncates, h]

/-- The first step of RECV with an event pending: the event consumed, the mask opened, the length read and kept. -/
theorem exec_recv_readsLength {cap : Half} {s : State} {r₀ len : Byte} (hcap : cap ≠ 0) (hready : s.ready)
    (hd : s.resetDone = true) (hev : s.evRx = true) (hans : s.answers [r₀, len]) :
    exec (.recv cap) s = .next
      { s.afterTransaction [0x13, 0x00] [r₀, len] with
        trace := s.trace ++ bracketEvents [0x13, 0x00] [r₀, len] ++
          (if cap.toNat ≤ len.toNat then [.diag .truncatedReceive] else [])
        evRx := false, maskOld := s.irqMask, irqMask := true, recvLen := len
        seq := some ⟨.recv cap, 2⟩, result := none, declined := none } := by
  have hev' : (s.accept (.recv cap) 1).evRx = true := hev
  have hans' : ((s.accept (.recv cap) 1).openMask.setFlag .rxDone false).answers [r₀, len] := hans
  rw [exec_recv_offer hcap hready hd, recvStep_one_of_event hev', memRead_answered _ 1 r₀ [len] _ rfl hans', recvLength_eq]
  rfl

/-- The last step of RECV: the burst of the clamp's length into the host's buffer, the mask put back, the result. -/
theorem exec_recv_delivers {cap : Half} {s : State} {r₀ : Byte} {bytes : List Byte} (hat : s.atStep (.recv cap) 4)
    (hlen : bytes.length = clampLen s.recvLen cap) (hans : s.answers (r₀ :: bytes)) :
    exec (.recv cap) s = .next
      { s.afterTransaction (0x00 :: List.replicate bytes.length 0x00) (r₀ :: bytes) with
        rxBuf := Memory.writeRun s.rxBuf 0 bytes, irqMask := s.maskOld, seq := none
        result := some ⟨BitVec.ofNat 8 bytes.length, if cap.toNat ≤ s.recvLen.toNat then .okTruncated else .ok⟩ } := by
  have hburst : recvStep cap 4 s = (burstToHost (clampLen s.recvLen cap) s).andThen fun _ t => recvEnd cap t := rfl
  rw [exec_recv_atStep hat, hburst, burstToHost_answered _ r₀ bytes s hlen hans, hlen]
  simp only [← truncates_iff]
  rfl

/-! ### The receive buffer through RECV (R188) -/

theorem transaction_rxBuf (header : Byte) (outs : List Byte) (s : State) :
    (transaction header outs s).st.rxBuf = s.rxBuf := by
  obtain ⟨tr, rs, n, h⟩ := transaction_frame header outs s
  rw [h, State.withBus_rxBuf]

/-- Going on with what leaves the receive buffer alone leaves it as the transaction did, completed or not. -/
theorem BusRun.andThen_rxBuf (r : BusRun) {k : List Byte → State → State} (hk : ∀ got t, (k got t).rxBuf = t.rxBuf) :
    (r.andThen k).rxBuf = r.st.rxBuf := by
  unfold BusRun.andThen
  split
  · exact hk _ _
  · rfl

theorem transaction_andThen_rxBuf (header : Byte) (outs : List Byte) (s : State) {k : List Byte → State → State}
    (hk : ∀ got t, (k got t).rxBuf = t.rxBuf) : ((transaction header outs s).andThen k).rxBuf = s.rxBuf :=
  (BusRun.andThen_rxBuf _ hk).trans (transaction_rxBuf header outs s)

theorem recvLength_rxBuf (cap : Half) (len : Byte) (s : State) : (recvLength cap len s).rxBuf = s.rxBuf := by
  rw [recvLength_eq]

/-- Only the last step of RECV writes the receive buffer. -/
theorem recvStep_rxBuf (cap : Half) {k : Nat} (hk : k ≠ 4) (s : State) : (recvStep cap k s).rxBuf = s.rxBuf := by
  unfold recvStep
  split
  · split
    · exact transaction_andThen_rxBuf _ _ _ fun got t => recvLength_rxBuf cap (firstByte got) t
    · rfl
  · exact transaction_andThen_rxBuf _ _ _ fun _ _ => rfl
  · exact transaction_andThen_rxBuf _ _ _ fun _ _ => rfl
  · exact absurd rfl hk
  · rfl

/-- No step of RECV writes at or beyond index `C - 1`: the burst is no longer than the clamp. -/
theorem recvStep_read_beyond (cap : Half) (k : Nat) (s : State) {x : Nat} (hx : cap.toNat - 1 ≤ x) :
    Memory.read (recvStep cap k s).rxBuf x = Memory.read s.rxBuf x := by
  by_cases hk : k = 4
  · subst hk
    have hbuf : (recvStep cap 4 s).rxBuf = (burstToHost (clampLen s.recvLen cap) s).st.rxBuf :=
      BusRun.andThen_rxBuf _ fun _ _ => rfl
    rw [hbuf]
    exact (burstToHost_buffer _ s).1 x ((clampLen_le _ _).trans hx)
  · rw [recvStep_rxBuf cap hk]

theorem exec_recv_read_beyond {cap : Half} {s t : State} {x : Nat} (h : exec (.recv cap) s = .next t)
    (hx : cap.toNat - 1 ≤ x) : Memory.read t.rxBuf x = Memory.read s.rxBuf x := by
  obtain rfl : runCommand (.recv cap) 1 (recvAdmission cap) (recvStep cap) s = t := Host.Outcome.next.inj h
  rcases runCommand_cases (.recv cap) 1 (recvAdmission cap) (recvStep cap) s with
    he | ⟨-, d, -, he⟩ | ⟨-, -, he⟩ | ⟨k, -, he⟩
  · rw [he]
  · rw [he, State.decline_rxBuf]
  · rw [he, recvStep_read_beyond cap 1 _ hx, State.accept_rxBuf]
  · rw [he, recvStep_read_beyond cap k s hx]

/-- Settles O42: the clamp is the minimum; the last step writes that many bytes from index 0, the first one puts out the
diagnostic, and no step reaches index `C - 1`. -/
theorem receiveClamp : Obligations.ReceiveClamp := by
  refine ⟨fun len cap _ => ⟨clampLen_eq_min len cap, truncates_iff⟩, ?delivers, ?diagnostic,
    fun _ _ _ _ => exec_recv_read_beyond, rfl, rfl⟩
  case delivers =>
    intro s cap r₀ bytes _ hat hlen hans
    rw [← clampLen_eq_min] at hlen
    refine ⟨_, exec_recv_delivers hat hlen hans, fun x => ?_, Memory.wf_writeRun _ _ _⟩
    simp [Memory.read_writeRun]
  case diagnostic =>
    intro s cap r₀ len hcap hready hd hev hans
    exact ⟨_, exec_recv_readsLength hcap hready hd hev hans, rfl, rfl⟩

end Sys2Proof.Machine
end

section
/-! The interrupt service (43_event_decoder R202 to R205, R214, R216): what its two transactions leave when the radio
answers them, and the two steps together, wherever the main context stands. -/

namespace Sys2Proof.Machine

/-! ### What the answers and the step leave for the next one -/

theorem State.answers_of_append {s : State} {bytes more : List Byte} (h : s.answers (bytes ++ more)) :
    s.answers bytes := by
  obtain ⟨rest, hr⟩ := h
  exact ⟨more.map some ++ rest, by rw [← hr, List.map_append, List.append_assoc]⟩

/-- A transaction uses up its own answers; the ones after them are the next transaction's. -/
theorem State.answers_afterTransaction {s : State} {sent got bytes : List Byte} (hlen : got.length = sent.length)
    (h : s.answers (got ++ bytes)) : (s.afterTransaction sent got).answers bytes := by
  obtain ⟨rest, hr⟩ := h
  refine ⟨rest, ?_⟩
  have hdrop : s.replies.drop sent.length = bytes.map some ++ rest := by
    rw [← hr, List.map_append, List.append_assoc, ← hlen, List.drop_left' (List.length_map _)]
  exact hdrop.symm

theorem wireGroups_xfers_append (outs ins : List Byte) (es : List Event) (sent : List Byte)
    (hlen : ins.length = outs.length) :
    wireGroups (List.zipWith Event.xfer outs ins ++ es) sent = wireGroups es (sent ++ outs) := by
  induction outs generalizing ins sent with
  | nil => simp
  | cons o outs ih =>
    cases ins with
    | nil => cases hlen
    | cons i ins => simp [wireGroups, ih ins (sent ++ [o]) (Nat.succ.inj hlen)]

/-- A complete bracket is one group: the bytes sent in it. -/
theorem wireGroups_bracket_append (outs ins : List Byte) (es : List Event) (sent : List Byte)
    (hlen : ins.length = outs.length) :
    wireGroups (bracketEvents outs ins ++ es) sent = outs :: wireGroups es [] := by
  simp [bracketEvents, wireGroups, wireGroups_xfers_append outs ins _ [] hlen]

/-- A run whose first step answers a next state goes on from it. -/
theorem core_run_succ {s t : State} (h : step s = .next t) (k : Nat) :
    Sys2Proof.core.run (k + 1) s = Sys2Proof.core.run k t := by
  have hcore : Sys2Proof.core.step s = .next t := h
  simp only [Host.Core.run, hcore]

/-- A running service, or one that may start once `irq` is sampled, has the step (43_event_decoder R201, R202). -/
theorem step_service {s : State} (hcs : s.cs = false)
    (h : s.inService = true ∨ (sampleIrq s).serviceMayStart = true) : step s = exec .irqsvc (sampleIrq s) := by
  rw [step, arbitrate_service (s := sampleIrq s) hcs h]

/-! ### What an event leaves unchanged (R205) -/

section ApplyEvent
variable (e : IrqEvent) (s : State)

@[simp] theorem applyEvent_cs : (applyEvent e s).cs = s.cs := by rw [applyEvent_eq]
@[simp] theorem applyEvent_seq : (applyEvent e s).seq = s.seq := by rw [applyEvent_eq]
@[simp] theorem applyEvent_irqPend : (applyEvent e s).irqPend = s.irqPend := by rw [applyEvent_eq]
@[simp] theorem applyEvent_irqMask : (applyEvent e s).irqMask = s.irqMask := by rw [applyEvent_eq]
@[simp] theorem applyEvent_hostIn : (applyEvent e s).hostIn = s.hostIn := by rw [applyEvent_eq]
@[simp] theorem applyEvent_result : (applyEvent e s).result = s.result := by rw [applyEvent_eq]
@[simp] theorem applyEvent_rxBuf : (applyEvent e s).rxBuf = s.rxBuf := by rw [applyEvent_eq]
@[simp] theorem applyEvent_evRx : (applyEvent e s).evRx = (s.evRx || e == .receiveDone) := by rw [applyEvent_eq]

/-- An event puts no transaction on the trace. -/
theorem applyEvent_trace : ∃ es, (applyEvent e s).trace = s.trace ++ es ∧ wireGroups es [] = [] := by
  cases e with
  | none => exact ⟨[.diag .noneEvent], rfl, rfl⟩
  | transmitDone => exact ⟨[], (List.append_nil _).symm, rfl⟩
  | receiveDone => exact ⟨[], (List.append_nil _).symm, rfl⟩
  | crcError => exact ⟨[.diag .crcFailure], rfl, rfl⟩

end ApplyEvent

/-! ### The two transactions -/

/-- The state between the two transactions of a service: the flags byte is held, the latch is free for the next edge
(43_event_decoder R202). -/
def State.serving (r₀ f : Byte) (s : State) : State :=
  { s.afterTransaction [0x12, 0x00] [r₀, f] with irqPend := false, inService := true, svcFlags := some f }

/-- The state after the second transaction: the event of the byte held has taken effect (43_event_decoder R205). -/
def State.served (f r₀ r₁ : Byte) (s : State) : State :=
  (applyEvent (decodeEvent f) (s.afterTransaction [0x92, 0xFF] [r₀, r₁])).leaveService

/-- IRQSVC as the machine runs it. -/
theorem exec_irqsvc (s : State) : exec .irqsvc s = .next (irqsvcStep s) := rfl

theorem irqsvcStep_of_mayStart {s : State} (h : s.serviceMayStart = true) :
    irqsvcStep s = serviceRead s.enterService := by
  obtain ⟨-, hcs, hsvc, -⟩ := (serviceMayStart_iff s).mp h
  simp [irqsvcStep, hcs, hsvc, h]

theorem irqsvcStep_of_flags {s : State} {f : Byte} (hcs : s.cs = false) (hsvc : s.inService = true)
    (hf : s.svcFlags = some f) : irqsvcStep s = serviceClear f s := by
  simp [irqsvcStep, hcs, hsvc, hf]

/-- The service starts with its first transaction answered: the flags byte is held (43_event_decoder R202). -/
theorem exec_irqsvc_reads {s : State} {r₀ f : Byte} (hm : s.serviceMayStart = true) (hans : s.answers [r₀, f]) :
    exec .irqsvc s = .next (s.serving r₀ f) := by
  have hans' : s.enterService.answers [r₀, f] := hans
  rw [exec_irqsvc, irqsvcStep_of_mayStart hm, serviceRead, memRead_answered _ 1 r₀ [f] _ rfl hans']
  rfl

/-- The service ends with its second transaction answered: the event takes effect after the write (43_event_decoder
R202, R203). -/
theorem exec_irqsvc_clears {s : State} {r₀ r₁ f : Byte} (hcs : s.cs = false) (hsvc : s.inService = true)
    (hf : s.svcFlags = some f) (hans : s.answers [r₀, r₁]) :
    exec .irqsvc s = .next (s.served f r₀ r₁) := by
  rw [exec_irqsvc, irqsvcStep_of_flags hcs hsvc hf, serviceClear, memWrite_answered _ [0xFF] r₀ [r₁] s rfl hans]
  rfl

/-- Settles O57: the second transaction is the write of 0xFF, and the event of the byte held is applied after it. -/
theorem serviceEndsByClearingAndApplying : Obligations.ServiceEndsByClearingAndApplying := by
  intro s r₀ r₁ f hcs hsvc hf hans
  rw [exec_irqsvc_clears hcs hsvc hf hans, State.served, applyEvent_eq]
  cases decodeEvent f with
  | none => rfl
  | transmitDone => simp [State.leaveService, State.afterTransaction, autoEdge]
  | receiveDone => rfl
  | crcError => rfl

/-! ### The whole service -/

/-- The step that starts the service: `irq` sampled, the flags read. -/
theorem step_reads_flags {s : State} {r₀ f : Byte} (hcs : s.cs = false) (hm : (sampleIrq s).serviceMayStart = true)
    (hans : s.answers [r₀, f]) : step s = .next ((sampleIrq s).serving r₀ f) := by
  rw [step_service hcs (.inr hm), exec_irqsvc_reads hm hans]

/-- The step that ends the service: `irq` sampled, the flags cleared, the event applied. -/
theorem step_clears_flags {s : State} {r₀ r₁ f : Byte} (hcs : s.cs = false) (hsvc : s.inService = true)
    (hf : s.svcFlags = some f) (hans : s.answers [r₀, r₁]) : step s = .next ((sampleIrq s).served f r₀ r₁) := by
  rw [step_service hcs (.inl hsvc), exec_irqsvc_clears (s := sampleIrq s) hcs hsvc hf hans]

/-- A service the radio answers adds its two brackets and no other transaction to the trace. -/
theorem service_trace (a₀ f b₀ b₁ : Byte) (s : State) :
    ∃ new, ((sampleIrq (s.serving a₀ f)).served f b₀ b₁).trace = s.trace ++ new ∧
      wireGroups new [] = [[0x12, 0x00], [0x92, 0xFF]] := by
  obtain ⟨es, htrace, hes⟩ := applyEvent_trace (decodeEvent f)
    ((sampleIrq (s.serving a₀ f)).afterTransaction [0x92, 0xFF] [b₀, b₁])
  refine ⟨bracketEvents [0x12, 0x00] [a₀, f] ++ (bracketEvents [0x92, 0xFF] [b₀, b₁] ++ es), ?_, ?_⟩
  · rw [State.served, State.leaveService_trace, htrace]
    simp [State.afterTransaction, State.serving]
  · rw [wireGroups_bracket_append [0x12, 0x00] [a₀, f] _ _ rfl,
      wireGroups_bracket_append [0x92, 0xFF] [b₀, b₁] _ _ rfl, hes]

/-- Settles O59: the first step reads the flags and holds the main context, the second clears them and lets it go on. Each
samples the line once, and an edge the second one sees stays latched. -/
theorem wholeService : Obligations.WholeService := by
  intro s a₀ f b₀ b₁ before during rest hirq hcs _ hm hans
  have hread : step s = .next ((sampleIrq s).serving a₀ f) :=
    step_reads_flags hcs hm (State.answers_of_append (bytes := [a₀, f]) hans)
  have hleft : ((sampleIrq s).serving a₀ f).answers [b₀, b₁] :=
    State.answers_afterTransaction (s := sampleIrq s) (sent := [0x12, 0x00]) (got := [a₀, f]) rfl hans
  have hclear :
      step ((sampleIrq s).serving a₀ f) = .next ((sampleIrq ((sampleIrq s).serving a₀ f)).served f b₀ b₁) :=
    step_clears_flags rfl rfl rfl hleft
  have hlevels : ((sampleIrq s).serving a₀ f).nextLevels = during := by
    simp [State.nextLevels, State.serving, State.afterTransaction, hirq]
  rw [core_run_succ hread, core_run_succ hclear]
  refine ⟨_, rfl, service_trace a₀ f b₀ b₁ (sampleIrq s), rfl, ?cs, ?seq, ?mask, ?offers, ?result, ?buffer, ?latched,
    ?event⟩
  case latched =>
    rw [State.served, State.leaveService_irqPend, applyEvent_irqPend, ← hlevels]
    rfl
  all_goals simp [State.served, State.serving, State.afterTransaction]

end Sys2Proof.Machine
end

section
/-! The edge latch (43_event_decoder R200), the commands on the event flags (R209 to R211) and the decode of IrqFlags
(R204). -/

namespace Sys2Proof.Machine

/-! ### The edge latch (R200) -/

theorem lastLevel_cons (prev l : Bool) (ls : List Bool) : lastLevel prev (l :: ls) = lastLevel l ls := by
  simp [lastLevel, List.getLast?_cons]

/-- A sample takes the levels listed for it, and with them nothing but the edge latch. -/
theorem sampleIrq_of_irqIn {s : State} {ls : List Bool} {rest : List (List Bool)} (h : s.irqIn = ls :: rest) :
    sampleIrq s =
      { s with
        irqPend := s.irqPend || hasRise s.irqPrev ls, irqPrev := lastLevel s.irqPrev ls, irqIn := rest } := by
  simp [sampleIrq, State.nextLevels, h]

/-- Settles O11: one level rises exactly from 0 to 1, and the levels after it are sampled from it. -/
theorem edgesAreLatchedLevelByLevel : Obligations.EdgesAreLatchedLevelByLevel := by
  constructor
  · intro s l rest h
    rw [sampleIrq_of_irqIn h]
    simp [hasRise, lastLevel, Bool.and_comm]
  · intro s l ls rest h
    rw [sampleIrq_of_irqIn h, sampleIrq_of_irqIn (s := { s with irqIn := [l] :: ls :: rest }) rfl,
      sampleIrq_of_irqIn rfl, lastLevel_cons]
    simp [hasRise, lastLevel, Bool.or_assoc]

/-! ### The commands on the event flags (R209 to R211) -/

/-- An offer taken and answered in its first step: the sequencer is Idle again, the result at the port. -/
theorem runCommand_answered {i : Instr} {first : Nat} {gate : State → Option Decline} {body : Nat → State → State}
    {s t : State} {r : Result} (h : s.ready) (ha : gate s = none) (ht : t.seq = none)
    (hb : body first (s.accept i first) = (t.accept i first).finish r) :
    runCommand i first gate body s = { t with result := some r, declined := none } := by
  rw [runCommand_offer h ha, hb]
  simp [State.accept, State.finish, ht]

section FlagCommands
variable {s : State} (h : s.ready) (k : EventKind)
include h

theorem setFlag_seq_of_ready (b : Bool) : (s.setFlag k b).seq = none := by
  obtain ⟨-, -, hseq⟩ := h
  rw [State.setFlag_seq, hseq]

/-- EVTAKE of any kind (43_event_decoder R209). -/
theorem exec_evtake_offer :
    exec (.evtake k) s = .next
      { s.setFlag k false with result := some (flagResult (s.flag k)), declined := none } := by
  have hstep : evtakeStep k 1 (s.accept (.evtake k) 1) =
      ((s.setFlag k false).accept (.evtake k) 1).finish (flagResult (s.flag k)) := by cases k <;> rfl
  exact congrArg _ (runCommand_answered h rfl (setFlag_seq_of_ready h k false) hstep)

/-- EVCLEAR of any kind (43_event_decoder R210). -/
theorem exec_evclear_offer :
    exec (.evclear k) s = .next { s.setFlag k false with result := some ⟨0, .ok⟩, declined := none } := by
  have hstep : evclearStep k 1 (s.accept (.evclear k) 1) =
      ((s.setFlag k false).accept (.evclear k) 1).finish ⟨0, .ok⟩ := by cases k <;> rfl
  exact congrArg _ (runCommand_answered h rfl (setFlag_seq_of_ready h k false) hstep)

/-- EVPEEK of any kind (43_event_decoder R211). -/
theorem exec_evpeek_offer :
    exec (.evpeek k) s = .next { s with result := some (flagResult (s.flag k)), declined := none } := by
  have hseq : s.seq = none := h.2.2
  have hstep : evpeekStep k 1 (s.accept (.evpeek k) 1) =
      (s.accept (.evpeek k) 1).finish (flagResult (s.flag k)) := by cases k <;> rfl
  exact congrArg _ (runCommand_answered h rfl hseq hstep)

end FlagCommands

/-- Settles O47: the three words by the decoder, the three kinds by the one law of EVTAKE. -/
theorem evtakeTestsAndClears : Obligations.EvtakeTestsAndClears :=
  ⟨by decide, fun _ h =>
    ⟨exec_evtake_offer h .txDone, exec_evtake_offer h .rxDone, exec_evtake_offer h .crcError⟩⟩

/-- Settles O48: the three words by the decoder, the three kinds by the one law of EVCLEAR. -/
theorem evclearClears : Obligations.EvclearClears :=
  ⟨by decide, fun _ h =>
    ⟨exec_evclear_offer h .txDone, exec_evclear_offer h .rxDone, exec_evclear_offer h .crcError⟩⟩

/-- Settles O49: the three words by the decoder, the three kinds by the one law of EVPEEK. -/
theorem evpeekReads : Obligations.EvpeekReads :=
  ⟨by decide, fun _ h =>
    ⟨exec_evpeek_offer h .txDone, exec_evpeek_offer h .rxDone, exec_evpeek_offer h .crcError⟩⟩

/-! ### The decode of IrqFlags (R204) -/

section Decode
variable {rx crc tx f : Byte}

theorem decodeWith_crcError (hcrc : f &&& crc ≠ 0) (hrx : f &&& rx = 0) : decodeWith rx crc tx f = .crcError := by
  simp_all [decodeWith]

theorem decodeWith_receiveDone (hrx : f &&& rx ≠ 0) (hcrc : f &&& crc = 0) :
    decodeWith rx crc tx f = .receiveDone := by
  simp_all [decodeWith]

/-- Neither or both of the receive and CRC bits: the transmit bit decides. -/
theorem decodeWith_of_iff (h : f &&& crc = 0 ↔ f &&& rx = 0) :
    decodeWith rx crc tx f = if f &&& tx = 0 then .none else .transmitDone := by
  by_cases hrx : f &&& rx = 0
  · have hcrc : f &&& crc = 0 := h.mpr hrx
    simp_all [decodeWith]
  · have hcrc : f &&& crc ≠ 0 := mt h.mp hrx
    simp_all [decodeWith]

end Decode

/-- Settles O55: each clause is a case of the decode over any three masks; the worked values are computed. -/
theorem decodeOfFlagsByPriority : Obligations.DecodeOfFlagsByPriority := by
  refine ⟨fun f => ⟨decodeWith_crcError, decodeWith_receiveDone, fun h htx => ?_, fun h htx => ?_⟩, by decide⟩
  · rw [decodeEvent, decodeWith_of_iff h, if_neg htx]
  · rw [decodeEvent, decodeWith_of_iff h, if_pos htx]

end Sys2Proof.Machine
end

section
/-! Power-on and the busy block (70_reset_and_hazards R290, R300). Only the arbiter takes an offer off the port, and
only on an idle turn of the main context: no instruction touches the offers. -/

namespace Sys2Proof.Machine

/-! ### The step of a block that waits (R290) -/

/-- Idle entries at the port are used up one a step, and nothing is taken (log entry 5). -/
theorem fetchOffer_of_idle {s : State} (h : ∀ o ∈ s.hostIn, o = none) :
    fetchOffer s = (none, { s with hostIn := s.hostIn.tail }) := by
  unfold fetchOffer
  split
  · next hin =>
    have htail : s.hostIn.tail = s.hostIn := by rw [hin]; rfl
    rw [htail]
  · next rest hin => simp [hin]
  · next o rest hin => cases h (some o) (by simp [hin])

/-- No service starts before the first reset (43_event_decoder R201). -/
theorem serviceMayStart_of_beforeReset {s : State} (h : s.resetDone = false) : s.serviceMayStart = false := by
  simp [State.serviceMayStart, h]

/-- A waiting block samples the line and lets one idle entry pass. -/
theorem step_of_awaitsFirstCommand {s : State} (h : s.awaitsFirstCommand) :
    step s = .next { sampleIrq s with hostIn := s.hostIn.tail } := by
  obtain ⟨hreset, ⟨hcs, hsvc, hseq⟩, hframe, hidle⟩ := h
  have hquiet : (sampleIrq s).serviceMayStart = false := serviceMayStart_of_beforeReset hreset
  have hfetch : fetchOffer (sampleIrq s) = (none, { sampleIrq s with hostIn := s.hostIn.tail }) :=
    fetchOffer_of_idle hidle
  rw [step, arbitrate_offer (s := sampleIrq s) hcs hsvc hquiet hframe hseq, hfetch]

/-- Waiting goes on: neither the sample nor the passing entry ends it. -/
theorem awaitsFirstCommand_after_idle {s : State} (h : s.awaitsFirstCommand) :
    ({ sampleIrq s with hostIn := s.hostIn.tail } : State).awaitsFirstCommand := by
  obtain ⟨hreset, hready, hframe, hidle⟩ := h
  exact ⟨hreset, hready, hframe, fun o ho => hidle o (List.mem_of_mem_tail ho)⟩

/-- Settles O1: the power-on values are the definition's; the step of a waiting block is the sample of the line and one
idle entry gone. -/
theorem powerOnStateAndSilence : Obligations.PowerOnStateAndSilence := by
  refine ⟨by decide, by decide, fun s t hwait hstep => ?_⟩
  obtain rfl : { sampleIrq s with hostIn := s.hostIn.tail } = t :=
    Host.Outcome.next.inj ((step_of_awaitsFirstCommand hwait).symm.trans hstep)
  have hsame : sameRegisters (sampleIrq s) { sampleIrq s with hostIn := s.hostIn.tail } := by simp [sameRegisters]
  exact ⟨rfl, hsame, rfl, rfl, rfl, awaitsFirstCommand_after_idle hwait⟩

/-! ### The host's offers through the shared operations -/

section Offers
variable {s : State}

theorem transaction_hostIn (header : Byte) (outs : List Byte) (s : State) :
    (transaction header outs s).st.hostIn = s.hostIn := by
  obtain ⟨tr, rs, n, h⟩ := transaction_frame header outs s
  rw [h, State.withBus_hostIn]

theorem BusRun.andThen_hostIn {r : BusRun} (hr : r.st.hostIn = s.hostIn) {f : List Byte → State → State}
    (hf : ∀ got t, (f got t).hostIn = t.hostIn) : (r.andThen f).hostIn = s.hostIn := by
  unfold BusRun.andThen
  split
  · exact (hf _ _).trans hr
  · exact hr

/-- A step that is one transaction leaves the offers if what follows the transaction does. -/
theorem transaction_andThen_hostIn {header : Byte} {outs : List Byte} {f : List Byte → State → State}
    (hf : ∀ got t, (f got t).hostIn = t.hostIn) : ((transaction header outs s).andThen f).hostIn = s.hostIn :=
  BusRun.andThen_hostIn (transaction_hostIn header outs s) hf

theorem burstToHost_andThen_hostIn {n : Nat} {f : List Byte → State → State}
    (hf : ∀ got t, (f got t).hostIn = t.hostIn) : ((burstToHost n s).andThen f).hostIn = s.hostIn :=
  have hburst : (burstToHost n s).st.hostIn = s.hostIn := transaction_hostIn _ _ s
  BusRun.andThen_hostIn hburst hf

theorem setModeThen_hostIn {m : RadioMode} {f : State → State} (hf : ∀ t, (f t).hostIn = t.hostIn) :
    (setModeThen m f s).hostIn = s.hostIn :=
  transaction_andThen_hostIn fun _ t => hf { t with mode := modeOf m }

theorem performFrame_hostIn {reads : Bool} {header : Byte} {outs : List Byte} :
    (performFrame reads (transaction header outs) s).hostIn = s.hostIn := by
  unfold performFrame
  split
  · rfl
  · exact transaction_hostIn header outs s

theorem runCommand_hostIn {i : Instr} {first : Nat} {gate : State → Option Decline} {body : Nat → State → State}
    (hbody : ∀ k t, (body k t).hostIn = t.hostIn) : (runCommand i first gate body s).hostIn = s.hostIn := by
  rcases runCommand_cases i first gate body s with he | ⟨-, d, -, he⟩ | ⟨-, -, he⟩ | ⟨k, -, he⟩
  · rw [he]
  · rw [he, State.decline_hostIn]
  · rw [he, hbody, State.accept_hostIn]
  · rw [he, hbody]

end Offers

/-! ### The host's offers through the steps of the commands -/

/-- A command whose only step is step 1 leaves the offers if that step does. -/
theorem hostIn_of_onlyStep {body : Nat → State → State} (hone : ∀ s, (body 1 s).hostIn = s.hostIn)
    (hzero : ∀ s, body 0 s = s) (hlater : ∀ k s, body (k + 2) s = s) (k : Nat) (s : State) :
    (body k s).hostIn = s.hostIn :=
  match k with
  | 0 => congrArg State.hostIn (hzero s)
  | 1 => hone s
  | k + 2 => congrArg State.hostIn (hlater k s)

theorem wrregStep_hostIn (a : Addr) (v : Byte) (k : Nat) (s : State) : (wrregStep a v k s).hostIn = s.hostIn :=
  hostIn_of_onlyStep (fun _ => transaction_andThen_hostIn (by intros; rfl)) (fun _ => rfl) (fun _ _ => rfl) k s

theorem rdregStep_hostIn (a : Addr) (k : Nat) (s : State) : (rdregStep a k s).hostIn = s.hostIn :=
  hostIn_of_onlyStep (fun _ => transaction_andThen_hostIn (by intros; rfl)) (fun _ => rfl) (fun _ _ => rfl) k s

theorem wrfifoStep_hostIn (n : Byte) (k : Nat) (s : State) : (wrfifoStep n k s).hostIn = s.hostIn :=
  hostIn_of_onlyStep (fun _ => transaction_andThen_hostIn (by intros; rfl)) (fun _ => rfl) (fun _ _ => rfl) k s

theorem rdfifoStep_hostIn (n : Byte) (k : Nat) (s : State) : (rdfifoStep n k s).hostIn = s.hostIn :=
  hostIn_of_onlyStep (fun _ => burstToHost_andThen_hostIn (by intros; rfl)) (fun _ => rfl) (fun _ _ => rfl) k s

theorem setmodeStep_hostIn (m : RadioMode) (k : Nat) (s : State) : (setmodeStep m k s).hostIn = s.hostIn :=
  hostIn_of_onlyStep (fun _ => setModeThen_hostIn (by intros; rfl)) (fun _ => rfl) (fun _ _ => rfl) k s

theorem resetStep_hostIn (k : Nat) (s : State) : (resetStep k s).hostIn = s.hostIn :=
  hostIn_of_onlyStep (fun _ => rfl) (fun _ => rfl) (fun _ _ => rfl) k s

theorem evtakeStep_hostIn (e : EventKind) (k : Nat) (s : State) : (evtakeStep e k s).hostIn = s.hostIn :=
  hostIn_of_onlyStep (State.setFlag_hostIn e false) (fun _ => rfl) (fun _ _ => rfl) k s

theorem evclearStep_hostIn (e : EventKind) (k : Nat) (s : State) : (evclearStep e k s).hostIn = s.hostIn :=
  hostIn_of_onlyStep (State.setFlag_hostIn e false) (fun _ => rfl) (fun _ _ => rfl) k s

theorem evpeekStep_hostIn (e : EventKind) (k : Nat) (s : State) : (evpeekStep e k s).hostIn = s.hostIn :=
  hostIn_of_onlyStep (fun _ => rfl) (fun _ => rfl) (fun _ _ => rfl) k s

theorem irqmaskStep_hostIn (b : Bool) (k : Nat) (s : State) : (irqmaskStep b k s).hostIn = s.hostIn :=
  hostIn_of_onlyStep (fun _ => rfl) (fun _ => rfl) (fun _ _ => rfl) k s

theorem identityCheck_hostIn (v : Byte) (s : State) : (identityCheck v s).hostIn = s.hostIn := by
  unfold identityCheck
  split <;> rfl

theorem initStep_hostIn (k : Nat) (s : State) : (initStep k s).hostIn = s.hostIn := by
  unfold initStep
  split
  · rfl
  · exact setModeThen_hostIn fun _ => rfl
  · exact setModeThen_hostIn fun _ => rfl
  · exact transaction_andThen_hostIn fun got t => identityCheck_hostIn (firstByte got) t
  · split
    · exact transaction_andThen_hostIn fun _ _ => rfl
    · rfl

theorem sendStep_hostIn (len : Half) (k : Nat) (s : State) : (sendStep len k s).hostIn = s.hostIn := by
  unfold sendStep
  split
  · split
    · rfl
    · exact setModeThen_hostIn fun _ => rfl
  · exact transaction_andThen_hostIn fun _ _ => rfl
  · exact transaction_andThen_hostIn fun _ _ => rfl
  · exact transaction_andThen_hostIn fun _ _ => rfl
  · exact setModeThen_hostIn fun _ => rfl
  · rfl

theorem recvLength_hostIn (cap : Half) (len : Byte) (s : State) : (recvLength cap len s).hostIn = s.hostIn := by
  rw [recvLength_eq]

theorem recvStep_hostIn (cap : Half) (k : Nat) (s : State) : (recvStep cap k s).hostIn = s.hostIn := by
  unfold recvStep
  split
  · split
    · exact transaction_andThen_hostIn fun got t => recvLength_hostIn cap (firstByte got) t
    · rfl
  · exact transaction_andThen_hostIn fun _ _ => rfl
  · exact transaction_andThen_hostIn fun _ _ => rfl
  · exact burstToHost_andThen_hostIn fun _ _ => rfl
  · rfl

theorem serviceRead_hostIn (s : State) : (serviceRead s).hostIn = s.hostIn :=
  transaction_andThen_hostIn fun _ _ => rfl

theorem serviceClear_hostIn (f : Byte) (s : State) : (serviceClear f s).hostIn = s.hostIn :=
  transaction_andThen_hostIn fun _ t => applyEvent_hostIn (decodeEvent f) t

theorem irqsvcStep_hostIn (s : State) : (irqsvcStep s).hostIn = s.hostIn := by
  unfold irqsvcStep
  split
  · rfl
  · split
    · split
      · exact serviceClear_hostIn _ s
      · exact serviceRead_hostIn s
    · split
      · exact serviceRead_hostIn s.enterService
      · rfl

/-! ### The host's offers through one step (R300) -/

/-- Every command of the host is a step of the sequencer, and none of its steps touches the offers. -/
theorem exec_eq_runCommand {i : Instr} (h : i.commandName.isSome = true) :
    ∃ first gate body, (∀ k t, (body k t : State).hostIn = t.hostIn) ∧
      ∀ s, exec i s = .next (runCommand i first gate body s) := by
  cases i with
  | wrreg a v => exact ⟨_, _, _, wrregStep_hostIn a v, fun _ => rfl⟩
  | rdreg a => exact ⟨_, _, _, rdregStep_hostIn a, fun _ => rfl⟩
  | wrfifo n => exact ⟨_, _, _, wrfifoStep_hostIn n, fun _ => rfl⟩
  | rdfifo n => exact ⟨_, _, _, rdfifoStep_hostIn n, fun _ => rfl⟩
  | reset => exact ⟨_, _, _, resetStep_hostIn, fun _ => rfl⟩
  | init => exact ⟨_, _, _, initStep_hostIn, fun _ => rfl⟩
  | setmode m => exact ⟨_, _, _, setmodeStep_hostIn m, fun _ => rfl⟩
  | sleep => exact ⟨_, _, _, setmodeStep_hostIn .sleep, fun _ => rfl⟩
  | standby => exact ⟨_, _, _, setmodeStep_hostIn .standby, fun _ => rfl⟩
  | listen => exact ⟨_, _, _, setmodeStep_hostIn .receiveContinuous, fun _ => rfl⟩
  | send len => exact ⟨_, _, _, sendStep_hostIn len, fun _ => rfl⟩
  | recv cap => exact ⟨_, _, _, recvStep_hostIn cap, fun _ => rfl⟩
  | evtake e => exact ⟨_, _, _, evtakeStep_hostIn e, fun _ => rfl⟩
  | evclear e => exact ⟨_, _, _, evclearStep_hostIn e, fun _ => rfl⟩
  | evpeek e => exact ⟨_, _, _, evpeekStep_hostIn e, fun _ => rfl⟩
  | irqmask b => exact ⟨_, _, _, irqmaskStep_hostIn b, fun _ => rfl⟩
  | w1 | r1 | wb | rb | irqsvc => cases h

/-- No instruction touches the offers: taking one is the arbiter's. -/
theorem exec_hostIn {i : Instr} {s t : State} (h : exec i s = .next t) : t.hostIn = s.hostIn := by
  cases hname : i.commandName.isSome with
  | true =>
    obtain ⟨first, gate, body, hbody, hexec⟩ := exec_eq_runCommand hname
    obtain rfl := Host.Outcome.next.inj ((hexec s).symm.trans h)
    exact runCommand_hostIn hbody
  | false =>
    cases i with
    | w1 a v => cases h; exact performFrame_hostIn
    | r1 a d => cases h; exact performFrame_hostIn
    | wb data =>
      cases h
      split
      · exact performFrame_hostIn
      · rfl
    | rb n => cases h; exact performFrame_hostIn
    | irqsvc => cases h; exact irqsvcStep_hostIn s
    | _ => cases hname

theorem fetchFrame_hostIn (bytes : List Byte) (s : State) : (fetchFrame bytes s).2.hostIn = s.hostIn := by
  unfold fetchFrame
  split <;> rfl

/-- A busy or stuck block takes no offer: an idle turn of the main context is the only one that does. -/
theorem arbitrate_hostIn_of_busy {s : State} (h : s.busyO = true ∨ s.cs = true) :
    (arbitrate s).2.hostIn = s.hostIn := by
  rcases arbitrate_cases s with ⟨-, he⟩ | ⟨-, -, he⟩ |
    ⟨hcs, hsvc, -, ⟨bytes, -, he⟩ | ⟨-, p, -, he⟩ | ⟨-, hseq, -⟩⟩
  · rw [he]
  · rw [he]
  · rw [he, fetchFrame_hostIn]
  · rw [he]
  · simp [State.busyO, hcs, hsvc, hseq] at h

/-- After the arbiter, the step leaves the offers as they are. -/
theorem step_hostIn_eq_arbitrate {s t : State} (h : step s = .next t) :
    t.hostIn = (arbitrate (sampleIrq s)).2.hostIn := by
  unfold step at h
  split at h
  · next i u he => rw [he, exec_hostIn h]
  · next u he => cases h; rw [he]

/-- A command that is not the running one, or that a stuck bus or the service holds, does not move. -/
theorem exec_of_not_running {i : Instr} (hname : i.commandName.isSome = true) {s : State}
    (h : s.cs = true ∨ s.inService = true ∨ ∃ p, s.seq = some p ∧ p.cmd ≠ i) : exec i s = .next s := by
  obtain ⟨first, gate, body, -, hexec⟩ := exec_eq_runCommand hname
  rw [hexec]
  rcases h with hcs | hsvc | ⟨p, hp, hne⟩
  · rw [runCommand_held (.inl hcs)]
  · rw [runCommand_held (.inr hsvc)]
  · rw [runCommand_other hp hne]

/-- Settles O22: a busy block's arbiter leaves the offers where they are and no instruction touches them; a command that
is not running is held. -/
theorem busyBlockAcceptsNoCommand : Obligations.BusyBlockAcceptsNoCommand := by
  refine ⟨fun s t hstep hbusy => ?_, fun s i hname => exec_of_not_running hname⟩
  calc t.hostIn = (arbitrate (sampleIrq s)).2.hostIn := step_hostIn_eq_arbitrate hstep
    _ = (sampleIrq s).hostIn := arbitrate_hostIn_of_busy hbusy
    _ = s.hostIn := sampleIrq_hostIn s

end Sys2Proof.Machine
end

section
/-! Decoder against encoder (30_encoding R120 to R123, R101 to R104, R127, R129). An operand stands in its field with
the bits above it 0, which is what the decoder tests; a field that passes the test is the operand it spells. -/

namespace Sys2Proof

/-! ### Operands in their fields (R123) -/

/-- A field that an operand fills with zeros above passes the decoder's bound. -/
theorem toNat_setWidth_lt {v n : Nat} (h : v ≤ n) (x : BitVec v) : (x.setWidth n).toNat < 2 ^ v := by
  rw [BitVec.toNat_setWidth_of_le h]
  exact x.isLt

/-- A field within the bound is its operand filled with zeros. -/
theorem setWidth_setWidth_of_lt {v n : Nat} {x : BitVec n} (h : x.toNat < 2 ^ v) : (x.setWidth v).setWidth n = x := by
  apply BitVec.eq_of_toNat_eq
  rw [BitVec.toNat_setWidth, BitVec.toNat_setWidth, Nat.mod_eq_of_lt h, Nat.mod_eq_of_lt x.isLt]

theorem setWidth_setWidth_self {v n : Nat} (h : v ≤ n) (x : BitVec v) : (x.setWidth n).setWidth v = x := by
  rw [BitVec.setWidth_setWidth_of_le x h, BitVec.setWidth_eq]

theorem decode_cmd_commandWord (op a : Byte) (w : Half) :
    decode (.cmd (commandWord op a w)) = decodeFields op a w := by
  rw [decode, decodeCommand, opField_commandWord, aField_commandWord, wField_commandWord]

theorem decodeMode_code (m : RadioMode) : decodeMode (m.code.setWidth 8) 0 = .ok (.setmode m) := by
  cases m <;> rfl

theorem decodeKind_code (f : EventKind → Instr) (k : EventKind) : decodeKind f (k.code.setWidth 8) 0 = .ok (f k) := by
  cases k <;> rfl

theorem decodeFields_send (len : Half) : decodeFields 0x13 0 len = .ok (.send len) := rfl

theorem decodeFields_recv {cap : Half} (h : cap ≠ 0) : decodeFields 0x14 0 cap = .ok (.recv cap) := if_neg h

/-! ### Frames (R101 to R104) -/

theorem getLsbD_writeHeader (a : Addr) : (writeHeader a).getLsbD 7 = true := by
  simp [writeHeader]

theorem getLsbD_readHeader (a : Addr) : (readHeader a).getLsbD 7 = false := by
  simp [readHeader]

theorem setWidth_writeHeader (a : Addr) : (writeHeader a).setWidth 7 = a := by
  revert a; decide

theorem setWidth_readHeader (a : Addr) : (readHeader a).setWidth 7 = a := by
  revert a; decide

theorem writeHeader_setWidth {h : Byte} (h7 : h.getLsbD 7 = true) : writeHeader (h.setWidth 7) = h := by
  revert h; decide

theorem readHeader_setWidth {h : Byte} (h7 : h.getLsbD 7 = false) : readHeader (h.setWidth 7) = h := by
  revert h; decide

theorem decodeFrame_w1 (a : Addr) (v : Byte) : decodeFrame [writeHeader a, v] = .ok (.w1 a v) := by
  rw [decodeFrame, if_pos (getLsbD_writeHeader a), setWidth_writeHeader]

theorem decodeFrame_r1 (a : Addr) (d : Byte) : decodeFrame [readHeader a, d] = .ok (.r1 a d) := by
  rw [decodeFrame, getLsbD_readHeader, if_neg Bool.false_ne_true, setWidth_readHeader]

/-- The shape that `decodeFrame` does not read as a single access. -/
theorem decodeFrame_burst {h : Byte} {rest : List Byte} (hlen : rest.length ≠ 1) :
    decodeFrame (h :: rest) =
      if rest.length ≤ Config.maxPayload then
        if h = 0x80 then .ok (.wb rest)
        else if h = 0x00 ∧ rest.all (· == Config.dummy) then .ok (.rb (BitVec.ofNat 8 rest.length))
        else .error .badFrame
      else .error .badFrame := by
  match rest, hlen with
  | [], _ => rfl
  | [_], hlen => exact absurd rfl hlen
  | _ :: _ :: _, _ => rfl

theorem decodeFrame_wb {data : List Byte} (hmax : data.length ≤ Config.maxPayload) :
    decodeFrame (0x80 :: data) = .ok (Instr.wb data).canonical := by
  match data with
  | [] => rfl
  | [v] => exact decodeFrame_w1 0 v
  | _ :: _ :: _ => rw [decodeFrame_burst (by simp), if_pos hmax, if_pos rfl]; rfl

theorem decodeFrame_rb (n : Byte) :
    decodeFrame (0x00 :: List.replicate n.toNat Config.dummy) = .ok (Instr.rb n).canonical := by
  by_cases hn : n = 1
  · subst hn; rfl
  · have hlen : (List.replicate n.toNat Config.dummy).length ≠ 1 := by
      rw [List.length_replicate]
      exact fun h => hn (BitVec.eq_of_toNat_eq h)
    have hmax : (List.replicate n.toNat Config.dummy).length ≤ Config.maxPayload := by
      rw [List.length_replicate]
      exact Nat.le_of_lt_succ n.isLt
    have hdummies : (List.replicate n.toNat Config.dummy).all (· == Config.dummy) = true := by simp
    have hcanonical : (Instr.rb n).canonical = .rb n := if_neg hn
    rw [decodeFrame_burst hlen, if_pos hmax, if_neg (by decide), if_pos ⟨rfl, hdummies⟩, hcanonical,
      List.length_replicate, BitVec.ofNat_toNat, BitVec.setWidth_eq]

/-- Settles O2: every word and frame is run through the decoder. -/
theorem sampleWordsDecode : Obligations.SampleWordsDecode := by
  unfold Obligations.SampleWordsDecode
  decide

/-- Settles O3: each field of a code passes its test and gives the operand back; a frame is told by its length and
header. -/
theorem decodeAfterEncode : Obligations.DecodeAfterEncode := by
  intro i hwf hsvc
  cases i with
  | wrreg a v =>
    rw [encode, decode_cmd_commandWord]
    exact (if_pos ⟨toNat_setWidth_lt (by decide) a, toNat_setWidth_lt (by decide) v⟩).trans
      (by rw [setWidth_setWidth_self (by decide), setWidth_setWidth_self (by decide)]; rfl)
  | rdreg a =>
    rw [encode, decode_cmd_commandWord]
    exact (if_pos ⟨toNat_setWidth_lt (by decide) a, rfl⟩).trans (by rw [setWidth_setWidth_self (by decide)]; rfl)
  | wrfifo n =>
    rw [encode, decode_cmd_commandWord]
    exact (if_pos ⟨rfl, toNat_setWidth_lt (by decide) n⟩).trans (by rw [setWidth_setWidth_self (by decide)]; rfl)
  | rdfifo n =>
    rw [encode, decode_cmd_commandWord]
    exact (if_pos ⟨rfl, toNat_setWidth_lt (by decide) n⟩).trans (by rw [setWidth_setWidth_self (by decide)]; rfl)
  | setmode m => exact (decode_cmd_commandWord ..).trans (decodeMode_code m)
  | recv cap =>
    have hcap : cap ≠ 0 := by simpa [Instr.wf] using hwf
    exact (decode_cmd_commandWord ..).trans (decodeFields_recv hcap)
  | send len => exact (decode_cmd_commandWord ..).trans (decodeFields_send len)
  | evtake k => exact (decode_cmd_commandWord ..).trans (decodeKind_code .evtake k)
  | evclear k => exact (decode_cmd_commandWord ..).trans (decodeKind_code .evclear k)
  | evpeek k => exact (decode_cmd_commandWord ..).trans (decodeKind_code .evpeek k)
  | irqmask b => cases b <;> rfl
  | reset | init | sleep | standby | listen => rfl
  | w1 a v => exact decodeFrame_w1 a v
  | r1 a d => exact decodeFrame_r1 a d
  | wb data => exact decodeFrame_wb (by simpa [Instr.wf] using hwf)
  | rb n => exact decodeFrame_rb n
  | irqsvc => exact absurd rfl hsvc

/-! ### Decoded, then encoded -/

/-- The instruction has this code and is well-formed; what every instruction that the decoder reads from `c` is. -/
def Spells (c : Code) (i : Instr) : Prop := encode i = c ∧ i.wf = true ∧ i ≠ .irqsvc

theorem code_of_modeOfCode {c : BitVec 3} {m : RadioMode} (h : modeOfCode c = some m) : m.code = c := by
  revert c m; decide

theorem code_of_kindOfCode {c : BitVec 2} {k : EventKind} (h : kindOfCode c = some k) : k.code = c := by
  revert c k; decide

/-- An arm that accepts made its test. -/
theorem ok_of_ite_error {p : Prop} [Decidable p] {e : Reject} {answer : Except Reject Instr} {i : Instr}
    (h : (if p then answer else .error e) = .ok i) : p ∧ answer = .ok i := by
  split at h
  · exact ⟨‹p›, h⟩
  · cases h

theorem spells_of_decodeBare {i j : Instr} {op a : Byte} {w : Half} (hi : Spells (.cmd (commandWord op 0 0)) i)
    (h : decodeBare i a w = .ok j) : Spells (.cmd (commandWord op a w)) j := by
  obtain ⟨⟨rfl, rfl⟩, hj⟩ := ok_of_ite_error h
  cases hj
  exact hi

theorem spells_of_decodeKind {f : EventKind → Instr} {j : Instr} {op a : Byte} {w : Half}
    (hf : ∀ k, Spells (.cmd (commandWord op (k.code.setWidth 8) 0)) (f k)) (h : decodeKind f a w = .ok j) :
    Spells (.cmd (commandWord op a w)) j := by
  obtain ⟨⟨ha, rfl⟩, hk⟩ := ok_of_ite_error h
  split at hk
  · next k hkind =>
    cases hk
    have hcode := hf k
    rwa [code_of_kindOfCode hkind, setWidth_setWidth_of_lt ha] at hcode
  · cases hk

theorem spells_of_decodeMode {j : Instr} {a : Byte} {w : Half} (h : decodeMode a w = .ok j) :
    Spells (.cmd (commandWord 0x12 a w)) j := by
  obtain ⟨⟨ha, rfl⟩, hm⟩ := ok_of_ite_error h
  split at hm
  · next m hmode =>
    cases hm
    refine ⟨?_, rfl, nofun⟩
    rw [encode, code_of_modeOfCode hmode, setWidth_setWidth_of_lt ha]
  · cases hm

theorem ite_getLsbD_zero {a : Byte} (ha : a.toNat < 2) : (if a.getLsbD 0 then (1 : Byte) else 0) = a := by
  revert a; decide

/-- A frame that is no single access is read as a burst: the full payload of WB, the dummies of RB. -/
theorem spells_of_burst {h₀ : Byte} {rest : List Byte} {i : Instr} (hlen : rest.length ≠ 1)
    (h : decodeFrame (h₀ :: rest) = .ok i) : Spells (.spi (h₀ :: rest)) i := by
  rw [decodeFrame_burst hlen] at h
  obtain ⟨hmax, h⟩ := ok_of_ite_error h
  split at h
  · next hwrite =>
    cases h
    subst hwrite
    exact ⟨rfl, by simpa [Instr.wf] using hmax, nofun⟩
  · obtain ⟨⟨rfl, hdummies⟩, hi⟩ := ok_of_ite_error h
    cases hi
    have hsmall : rest.length < 2 ^ 8 := Nat.lt_succ_of_le hmax
    have hrest : List.replicate rest.length Config.dummy = rest := by
      rw [eq_comm, List.eq_replicate_iff]
      simpa using hdummies
    refine ⟨?_, rfl, nofun⟩
    rw [encode, BitVec.toNat_ofNat, Nat.mod_eq_of_lt hsmall, hrest]

theorem spells_of_decodeFields {op a : Byte} {w : Half} {i : Instr} (h : decodeFields op a w = .ok i) :
    Spells (.cmd (commandWord op a w)) i := by
  have hop {n : Nat} (hn : op.toNat = n) : op = BitVec.ofNat 8 n := by rw [← hn, BitVec.ofNat_toNat, BitVec.setWidth_eq]
  unfold decodeFields at h
  split at h
  -- an op that is not listed
  case h_14 => cases h
  all_goals
    rename_i hn
    obtain rfl := hop hn
  -- WRREG
  case h_1 =>
    obtain ⟨⟨ha, hw⟩, hi⟩ := ok_of_ite_error h
    cases hi
    refine ⟨?_, rfl, nofun⟩
    rw [encode, setWidth_setWidth_of_lt ha, setWidth_setWidth_of_lt hw]
    rfl
  -- RDREG
  case h_2 =>
    obtain ⟨⟨ha, rfl⟩, hi⟩ := ok_of_ite_error h
    cases hi
    refine ⟨?_, rfl, nofun⟩
    rw [encode, setWidth_setWidth_of_lt ha]
    rfl
  -- WRFIFO, RDFIFO
  case h_3 | h_4 =>
    obtain ⟨⟨rfl, hw⟩, hi⟩ := ok_of_ite_error h
    cases hi
    refine ⟨?_, rfl, nofun⟩
    rw [encode, setWidth_setWidth_of_lt hw]
    rfl
  -- RESET, INIT
  case h_5 | h_6 => exact spells_of_decodeBare (by exact ⟨rfl, rfl, nofun⟩) h
  -- SETMODE
  case h_7 => exact spells_of_decodeMode h
  -- SEND
  case h_8 =>
    obtain ⟨rfl, hi⟩ := ok_of_ite_error h
    cases hi
    exact ⟨rfl, rfl, nofun⟩
  -- RECV
  case h_9 =>
    obtain ⟨rfl, hi⟩ := ok_of_ite_error h
    split at hi <;> cases hi
    next hcap => exact ⟨rfl, by simpa [Instr.wf] using hcap, nofun⟩
  -- EVTAKE, EVCLEAR, EVPEEK
  case h_10 | h_11 | h_12 => exact spells_of_decodeKind (by exact fun _ => ⟨rfl, rfl, nofun⟩) h
  -- IRQMASK
  case h_13 =>
    obtain ⟨⟨ha, rfl⟩, hi⟩ := ok_of_ite_error h
    cases hi
    refine ⟨?_, rfl, nofun⟩
    rw [encode, ite_getLsbD_zero ha]
    rfl

theorem spells_of_decodeFrame {bytes : List Byte} {i : Instr} (h : decodeFrame bytes = .ok i) :
    Spells (.spi bytes) i := by
  match bytes with
  | [] => cases h
  | [h₀, v] =>
    cases h7 : h₀.getLsbD 7 with
    | true =>
      cases (if_pos h7).symm.trans h
      exact ⟨by rw [encode, writeHeader_setWidth h7], rfl, nofun⟩
    | false =>
      cases (if_neg (ne_true_of_eq_false h7)).symm.trans h
      exact ⟨by rw [encode, readHeader_setWidth h7], rfl, nofun⟩
  | [h₀] => exact spells_of_burst (by simp) h
  | h₀ :: b₁ :: b₂ :: rest => exact spells_of_burst (by simp) h

/-- Settles O4: the fields of the word, or the bytes of the frame, are those of the instruction that the decoder's arm
answers. -/
theorem encodeAfterDecode : Obligations.EncodeAfterDecode := by
  intro c i h
  cases c with
  | cmd c =>
    have hspells : Spells (.cmd (commandWord (opField c) (aField c) (wField c))) i := spells_of_decodeFields h
    rwa [commandWord_fields] at hspells
  | spi bytes => exact spells_of_decodeFrame h
  | absent => cases h

end Sys2Proof
end

section
/-! One step of the machine: who gets it, and that nobody does once the bus is stuck (10_state R31, R34, 30_encoding
R125, 40_register_interface R145, 60_exceptions R257). -/

namespace Sys2Proof.Machine

/-! ### The turn of the main context -/

/-- On the main context's turn, with nothing running, the step takes an offer that spells a command. -/
theorem step_offer {s : State} {o : Offer} {rest : List (Option Offer)} {i : Instr} (hturn : s.mainsTurn)
    (hseq : s.seq = none) (hin : s.hostIn = some o :: rest) (hword : decodeCommand o.word = .ok i) :
    step s = exec i ((sampleIrq s).takeOffer o rest) := by
  obtain ⟨hcs, hsvc, hm, hframe⟩ := hturn
  have hfetch : fetchOffer (sampleIrq s) = (some i, (sampleIrq s).takeOffer o rest) := by
    simp only [fetchOffer, sampleIrq_hostIn, hin, hword]
  rw [step, arbitrate_offer (s := sampleIrq s) hcs hsvc hm hframe hseq, hfetch]

/-- On the main context's turn, with nothing running, the step turns away an offer that spells no command. -/
theorem step_offer_declined {s : State} {o : Offer} {rest : List (Option Offer)} {e : Reject} (hturn : s.mainsTurn)
    (hseq : s.seq = none) (hin : s.hostIn = some o :: rest) (hword : decodeCommand o.word = .error e) :
    step s = .next (((sampleIrq s).takeOffer o rest).decline .noCommand) := by
  obtain ⟨hcs, hsvc, hm, hframe⟩ := hturn
  have hfetch : fetchOffer (sampleIrq s) = (none, ((sampleIrq s).takeOffer o rest).decline .noCommand) := by
    simp only [fetchOffer, sampleIrq_hostIn, hin, hword]
  rw [step, arbitrate_offer (s := sampleIrq s) hcs hsvc hm hframe hseq, hfetch]

theorem step_resume {s : State} {p : SeqPos} (hturn : s.mainsTurn) (hseq : s.seq = some p) :
    step s = exec p.cmd (sampleIrq s) := by
  obtain ⟨hcs, hsvc, hm, hframe⟩ := hturn
  rw [step, arbitrate_resume (s := sampleIrq s) hcs hsvc hm hframe hseq]

/-- A frame placed on a free bus has the step when no service runs or may start (log entry 9). -/
theorem step_frame {s : State} {bytes : List Byte} {i : Instr} (hcs : s.cs = false) (hsvc : s.inService = false)
    (hm : (sampleIrq s).serviceMayStart = false) (hreq : s.busReq = some bytes) (hbytes : decodeFrame bytes = .ok i) :
    step s = exec i { sampleIrq s with busReq := none } := by
  rw [step, arbitrate_frame (s := sampleIrq s) hcs hsvc hm hreq, fetchFrame, hbytes]

/-- Settles O6: the arbiter's case of an offer; what the decoder reads is well-formed. -/
theorem stepRunsTheOfferedCommand : Obligations.StepRunsTheOfferedCommand := by
  intro s o rest i hturn hseq hin hword
  obtain ⟨-, hwf, -⟩ := encodeAfterDecode (.cmd o.word) i hword
  exact ⟨step_offer hturn hseq hin hword, hwf⟩

/-- Settles O7: the arbiter's case of a running command. -/
theorem stepResumesTheRunningCommand : Obligations.StepResumesTheRunningCommand :=
  fun _ _ hturn hseq => step_resume hturn hseq

/-- Settles O10: the arbiter gives the step to nobody or to an instruction, and every meaning answers a next state. -/
theorem everyStepAnswers : Obligations.EveryStepAnswers := by
  intro s
  unfold step
  split
  · exact exec_next _ _
  · exact ⟨_, rfl⟩

/-! ### The placed word (log entry 5) -/

/-- Without a level before the step and with no edge pending, the sample uses the empty entry up and no more. -/
theorem sampleIrq_of_quiet {s : State} {rest : List (List Bool)} (h : s.irqIn = [] :: rest) :
    sampleIrq s = { s with irqIn := rest } := by
  rw [sampleIrq_of_irqIn h]
  simp [hasRise, lastLevel]

theorem serviceMayStart_of_noEdge {s : State} (h : s.irqPend = false) : s.serviceMayStart = false := by
  simp [State.serviceMayStart, h]

theorem decode_of_decodeTableWord {nbits w : Nat} {i : Instr} (h : decodeTableWord nbits w = some i) :
    decode (tableCode nbits w) = .ok i := by
  unfold decodeTableWord at h
  split at h
  · next j hj => rw [hj, Option.some.inj h]
  · cases h

/-- A free block with these offers and this frame at its ports, and no level on `irq` before its next step. -/
def State.placing (offers : List (Option Offer)) (frame : Option (List Byte)) (s : State) : State :=
  { s with
    cs := false, inService := false, irqPend := false, seq := none, irqIn := [] :: s.irqIn, hostIn := offers
    busReq := frame }

section PlacedWord
variable {s : State} {nbits w : Nat}

theorem withFetchWord_of_cmd {c : CmdWord} (h : tableCode nbits w = .cmd c) :
    s.withFetchWord nbits w = s.placing (some ⟨c, none, none, false⟩ :: s.hostIn) none := by
  simp only [State.withFetchWord, h]
  rfl

theorem withFetchWord_of_spi {bytes : List Byte} (h : tableCode nbits w = .spi bytes) :
    s.withFetchWord nbits w = s.placing s.hostIn (some bytes) := by
  simp only [State.withFetchWord, h]
  rfl

variable {offers : List (Option Offer)} {frame : Option (List Byte)}

theorem sampleIrq_placing :
    sampleIrq (s.placing offers frame) = { s.placing offers frame with irqIn := s.irqIn } := sampleIrq_of_quiet rfl

theorem serviceMayStart_placing : (sampleIrq (s.placing offers frame)).serviceMayStart = false := by
  rw [sampleIrq_placing]
  exact serviceMayStart_of_noEdge rfl

end PlacedWord

/-- Settles O8: a word is the offer of the next turn, a frame the request on the free bus; no edge is there to start a
service. -/
theorem nextStepRunsThePlacedWord : Obligations.NextStepRunsThePlacedWord := by
  intro s nbits w i hword
  have hcode := decode_of_decodeTableWord hword
  cases hc : tableCode nbits w with
  | cmd c =>
    have hread : decodeCommand c = .ok i := by rwa [hc] at hcode
    rw [withFetchWord_of_cmd hc,
      step_offer (o := ⟨c, none, none, false⟩) ⟨rfl, rfl, serviceMayStart_placing, rfl⟩ rfl rfl hread,
      sampleIrq_placing]
    rfl
  | spi bytes =>
    have hread : decodeFrame bytes = .ok i := by rwa [hc] at hcode
    rw [withFetchWord_of_spi hc, step_frame rfl rfl serviceMayStart_placing rfl hread, sampleIrq_placing]
    rfl
  | absent =>
    rw [hc] at hcode
    cases hcode

/-! ### A word that spells no command (R125) -/

theorem commandName_of_decodeCommand {c : CmdWord} {i : Instr} (h : decodeCommand c = .ok i) :
    ∃ name, i.commandName = some name := by
  have hcmd := isHostCommand_of_decodeCommand h
  cases i with
  | sleep | standby | listen | w1 | r1 | wb | rb | irqsvc => cases hcmd
  | _ => exact ⟨_, rfl⟩

theorem hits_of_decodeCommand {c : CmdWord} {i : Instr} (h : decodeCommand c = .ok i) :
    ∃ r ∈ matchTable, r.hits c = true := by
  obtain ⟨name, hname⟩ := commandName_of_decodeCommand h
  obtain ⟨r, hr, hop⟩ := List.mem_map.mp (op_mem_matchTable_of_decodeFields h)
  obtain ⟨-, hhits⟩ := (reads_iff_of_opField hr (BitVec.eq_of_toNat_eq hop.symm) name).mp ⟨i, h, hname⟩
  exact ⟨r, hr, hhits⟩

/-- Settles O21: what the decoder accepts hits some row, so it accepts no such word, and the offer is turned away. -/
theorem wordsThatSpellNoCommandAreTurnedAway : Obligations.WordsThatSpellNoCommandAreTurnedAway := by
  intro s o rest hturn hseq hin hnone
  cases hword : decodeCommand o.word with
  | ok i =>
    obtain ⟨r, hr, hhits⟩ := hits_of_decodeCommand hword
    exact absurd ((hnone r hr).symm.trans hhits) Bool.false_ne_true
  | error e =>
    refine ⟨_, step_offer_declined hturn hseq hin hword, ?_, rfl, rfl, rfl, rfl⟩
    simp [sameRegisters]

/-! ### The stuck bus (R145, R315) -/

theorem step_stuck {s : State} (h : s.cs = true) : step s = .next (sampleIrq s) := by
  rw [step, arbitrate_stuck (s := sampleIrq s) h]

/-- Settles O16: each step only samples the line, which leaves the bus stuck. -/
theorem stuckBusStopsEverything : Obligations.StuckBusStopsEverything := by
  intro n
  induction n with
  | zero => exact fun s h => ⟨s, rfl, h, rfl, rfl, rfl, rfl, rfl, rfl, rfl, rfl⟩
  | succ n ih =>
    intro s h
    rw [core_run_succ (step_stuck h)]
    exact ih (sampleIrq s) h

/-! ### Power-on -/

/-- Settles O12: at power-on nothing runs and every list is empty. -/
theorem invariantAtPowerOn : Obligations.InvariantAtPowerOn where
  buffer := rfl
  bracket := rfl
  held := nofun
  position := nofun
  resetLine := rfl
  noFrame := rfl
  beforeReset := fun _ => ⟨rfl, rfl, rfl, rfl, rfl, rfl, rfl, rfl, rfl⟩
  identified := nofun
  configured := nofun
  service := nofun
  noService := fun _ => rfl
  masked := nofun
  alone := nofun

end Sys2Proof.Machine
end

section
/-! The commands of one transaction and the commands without one, offered to an idle block (40_register_interface R141
to R147, 41_mode_fsm R161 to R171, 43_event_decoder R212): admitted or turned away, answered, or stuck at a dead
transfer. -/

namespace Sys2Proof.Machine

/-! ### Each command as the machine runs it -/

theorem exec_wrreg (a : Addr) (v : Byte) (s : State) :
    exec (.wrreg a v) s = .next (runCommand (.wrreg a v) 1 (wrregAdmission a) (wrregStep a v) s) := rfl

theorem exec_rdreg (a : Addr) (s : State) :
    exec (.rdreg a) s = .next (runCommand (.rdreg a) 1 (rdregAdmission a) (rdregStep a) s) := rfl

theorem exec_wrfifo (n : Byte) (s : State) :
    exec (.wrfifo n) s = .next (runCommand (.wrfifo n) 1 busAdmission (wrfifoStep n) s) := rfl

theorem exec_rdfifo (n : Byte) (s : State) :
    exec (.rdfifo n) s = .next (runCommand (.rdfifo n) 1 busAdmission (rdfifoStep n) s) := rfl

theorem exec_reset (s : State) : exec .reset s = .next (runCommand .reset 1 openAdmission resetStep s) := rfl

/-! ### Admission (R147, R171) -/

section Admission
variable {s : State}

theorem busAdmission_of_beforeReset (hd : s.resetDone = false) : busAdmission s = some .beforeReset := by
  simp [busAdmission, hd]

theorem wrregAdmission_of_beforeReset (a : Addr) (hd : s.resetDone = false) :
    wrregAdmission a s = some .beforeReset := by
  simp [wrregAdmission, hd]

theorem rdregAdmission_of_beforeReset (a : Addr) (hd : s.resetDone = false) :
    rdregAdmission a s = some .beforeReset := by
  simp [rdregAdmission, hd]

theorem recvAdmission_of_beforeReset {cap : Half} (hcap : cap ≠ 0) (hd : s.resetDone = false) :
    recvAdmission cap s = some .beforeReset := by
  rw [recvAdmission, if_neg hcap, busAdmission_of_beforeReset hd]

theorem wrregAdmission_of_resetDone {a : Addr} (hd : s.resetDone = true) (hmode : a ≠ 0x01) (hflags : a ≠ 0x12) :
    wrregAdmission a s = none := by
  have hfree : ¬ (a = RadioReg.mode.addr ∨ a = RadioReg.irqFlags.addr) := not_or.mpr ⟨hmode, hflags⟩
  simp [wrregAdmission, hd, hfree]

theorem rdregAdmission_of_resetDone {a : Addr} (hd : s.resetDone = true) (hflags : a ≠ 0x12) :
    rdregAdmission a s = none := by
  have hfree : ¬ a = RadioReg.irqFlags.addr := hflags
  simp [rdregAdmission, hd, hfree]

theorem wrregAdmission_guarded {a : Addr} (hd : s.resetDone = true) (ha : a = 0x01 ∨ a = 0x12) :
    wrregAdmission a s = some .guardedAddress := by
  have hguard : a = RadioReg.mode.addr ∨ a = RadioReg.irqFlags.addr := ha
  simp [wrregAdmission, hd, hguard]

theorem rdregAdmission_guarded (hd : s.resetDone = true) : rdregAdmission 0x12 s = some .guardedAddress := by
  simp [rdregAdmission, hd, RadioReg.addr]

end Admission

/-- Settles O19: the gate of every bus command answers "before the first reset". -/
theorem busCommandsBeforeResetAreTurnedAway : Obligations.BusCommandsBeforeResetAreTurnedAway := by
  intro s i hready hd hi
  have hgate := busAdmission_of_beforeReset hd
  rcases hi with ⟨a, v, rfl⟩ | ⟨a, rfl⟩ | ⟨n, rfl⟩ | ⟨n, rfl⟩ | ⟨m, rfl⟩ | rfl | rfl | rfl | ⟨l, rfl⟩ | ⟨c, rfl, hc⟩
  · exact congrArg _ (runCommand_declined hready (wrregAdmission_of_beforeReset a hd))
  · exact congrArg _ (runCommand_declined hready (rdregAdmission_of_beforeReset a hd))
  iterate 7 exact congrArg _ (runCommand_declined hready hgate)
  · exact congrArg _ (runCommand_declined hready (recvAdmission_of_beforeReset hc hd))

/-- Settles O20: the gates of WRREG and RDREG know the guarded addresses. -/
theorem guardedAddressesAreTurnedAway : Obligations.GuardedAddressesAreTurnedAway := fun _ _ hready hd =>
  ⟨congrArg _ (runCommand_declined hready (wrregAdmission_guarded hd (.inl rfl))),
    congrArg _ (runCommand_declined hready (wrregAdmission_guarded hd (.inr rfl))),
    congrArg _ (runCommand_declined hready (rdregAdmission_guarded hd))⟩

/-! ### The radio answers (R141 to R144, R161) -/

section Answered
variable {s : State} {got : List Byte}

/-- Going on after a write the radio answers with one byte for each byte sent. -/
theorem memWrite_answered_all {a : Addr} {vs : List Byte} (hlen : got.length = vs.length + 1) (hans : s.answers got)
    (k : List Byte → State → State) :
    (memWrite a vs s).andThen k = k got.tail (s.afterTransaction (writeHeader a :: vs) got) := by
  obtain ⟨r, ins, rfl⟩ := List.exists_cons_of_length_eq_add_one hlen
  exact memWrite_answered a vs r ins s (Nat.succ.inj hlen) hans k

/-- A mode write the radio answers: the owned mode changes after the write (41_mode_fsm R161). -/
theorem setModeThen_answered_all {m : RadioMode} {k : State → State} (hlen : got.length = 2) (hans : s.answers got) :
    setModeThen m k s = k { s.afterTransaction [0x81, modeByte m] got with mode := modeOf m } :=
  memWrite_answered_all hlen hans _

theorem exec_wrreg_answered {a : Addr} {v : Byte} (hready : s.ready) (hgate : wrregAdmission a s = none)
    (hlen : got.length = 2) (hans : s.answers got) :
    exec (.wrreg a v) s = .next
      { s.afterTransaction [writeHeader a, v] got with seq := none, result := some ⟨0, .ok⟩, declined := none } := by
  have hans' : (s.accept (.wrreg a v) 1).answers got := hans
  rw [exec_wrreg, runCommand_offer hready hgate, wrregStep, memWrite_answered_all hlen hans']
  rfl

theorem exec_rdreg_answered {a : Addr} {r v : Byte} (hready : s.ready) (hgate : rdregAdmission a s = none)
    (hans : s.answers [r, v]) :
    exec (.rdreg a) s = .next
      { s.afterTransaction [readHeader a, 0x00] [r, v] with
        seq := none, result := some ⟨v, .ok⟩, declined := none } := by
  have hans' : (s.accept (.rdreg a) 1).answers [r, v] := hans
  rw [exec_rdreg, runCommand_offer hready hgate, rdregStep, memRead_answered a 1 r [v] _ rfl hans']
  rfl

@[simp] theorem length_payloadBytes (n : Nat) (s : State) : (payloadBytes n s).length = n := by simp [payloadBytes]

/-- A payload that the host's buffer holds in full is its first bytes (20_memory R62). -/
theorem payloadBytes_eq_take {n : Nat} (h : n ≤ s.txBuf.length) : payloadBytes n s = s.txBuf.take n := by
  apply List.ext_getElem?
  intro i
  by_cases hi : i < n
  · have hbuf : i < s.txBuf.length := hi.trans_le h
    simp [payloadBytes, hi, hbuf]
  · simp [payloadBytes, hi]

theorem exec_wrfifo_answered {n : Byte} (hready : s.ready) (hd : s.resetDone = true) (hlen : got.length = n.toNat + 1)
    (hans : s.answers got) :
    exec (.wrfifo n) s = .next
      { s.afterTransaction (0x80 :: payloadBytes n.toNat s) got with
        seq := none, result := some ⟨0, .ok⟩, declined := none } := by
  have hans' : (s.accept (.wrfifo n) 1).answers got := hans
  rw [exec_wrfifo, runCommand_offer hready (busAdmission_of_resetDone hd), wrfifoStep,
    memWrite_answered_all (by simpa using hlen) hans']
  rfl

theorem exec_rdfifo_answered {n r : Byte} {ins : List Byte} (hready : s.ready) (hd : s.resetDone = true)
    (hlen : ins.length = n.toNat) (hans : s.answers (r :: ins)) :
    exec (.rdfifo n) s = .next
      { s.afterTransaction (0x00 :: List.replicate n.toNat 0x00) (r :: ins) with
        rxBuf := Memory.writeRun s.rxBuf 0 ins, seq := none, result := some ⟨n, .ok⟩, declined := none } := by
  have hans' : (s.accept (.rdfifo n) 1).answers (r :: ins) := hans
  rw [exec_rdfifo, runCommand_offer hready (busAdmission_of_resetDone hd), rdfifoStep,
    burstToHost_answered _ r ins _ hlen hans']
  rfl

/-- SETMODE, or the pseudo-command of its mode: the same state after it (41_mode_fsm R161, R167). -/
theorem modeCommand_answered (i : Instr) (m : RadioMode) (hready : s.ready) (hd : s.resetDone = true)
    (hlen : got.length = 2) (hans : s.answers got) :
    runCommand i 1 busAdmission (setmodeStep m) s =
      { s.afterTransaction [0x81, modeByte m] got with
        mode := modeOf m, seq := none, result := some ⟨0, .ok⟩, declined := none } := by
  have hans' : (s.accept i 1).answers got := hans
  rw [runCommand_offer hready (busAdmission_of_resetDone hd), setmodeStep, setModeThen_answered_all hlen hans']
  rfl

end Answered

/-- Settles O23: WRREG to an address that is not guarded is one answered write. -/
theorem wrregIsOneWriteTransaction : Obligations.WrregIsOneWriteTransaction :=
  fun _ _ _ _ _ hready hd hmode hflags hans =>
    exec_wrreg_answered hready (wrregAdmission_of_resetDone hd hmode hflags) rfl hans

/-- Settles O24: RDREG of an address that is not guarded is one answered read, its second reply the result. -/
theorem rdregHandsBackTheRadiosByte : Obligations.RdregHandsBackTheRadiosByte :=
  fun _ _ _ _ hready hd hflags hans => exec_rdreg_answered hready (rdregAdmission_of_resetDone hd hflags) hans

/-- Settles O25: the payload is the first bytes of the buffer because the buffer holds that many. -/
theorem wrfifoIsOneBurst : Obligations.WrfifoIsOneBurst := by
  intro s n r₀ ins hready hd hbuf hlen hans
  have hlen' : (r₀ :: ins).length = n.toNat + 1 := congrArg Nat.succ hlen
  rw [exec_wrfifo_answered hready hd hlen' hans, payloadBytes_eq_take hbuf]

/-- Settles O26: the burst is one run of writes to the buffer from index 0. -/
theorem rdfifoFillsTheHostBuffer : Obligations.RdfifoFillsTheHostBuffer := by
  intro s n r₀ ins hready hd hlen hans
  refine ⟨_, exec_rdfifo_answered hready hd hlen hans, fun x => ?_, Memory.wf_writeRun _ _ _⟩
  simp [Memory.read_writeRun, hlen]

/-- Settles O28: each pseudo-command is the mode command of its mode, and so is SETMODE. -/
theorem pseudoCommandsAreSetmode : Obligations.PseudoCommandsAreSetmode := by
  intro s r₀ r₁ hready hd hans
  have hafter (i : Instr) (m : RadioMode) := modeCommand_answered i m hready hd rfl hans
  have hsame (i : Instr) (m : RadioMode) : (.next (runCommand i 1 busAdmission (setmodeStep m) s) : Host.Outcome State
      Fault Refusal) = exec (.setmode m) s := congrArg _ ((hafter i m).trans (hafter (.setmode m) m).symm)
  exact ⟨⟨congrArg _ (hafter .sleep .sleep), hsame .sleep .sleep⟩,
    ⟨congrArg _ (hafter .standby .standby), hsame .standby .standby⟩,
    ⟨congrArg _ (hafter .listen .receiveContinuous), hsame .listen .receiveContinuous⟩⟩

/-! ### What the radio returns to a write (R146) -/

/-- A bracket that opens starts afresh: the groups before it stay. -/
theorem wireGroups_append_sel (tr es : List Event) (sent : List Byte) :
    wireGroups (tr ++ .sel :: es) sent = wireGroups tr sent ++ wireGroups es [] := by
  induction tr generalizing sent with
  | nil => rfl
  | cons e tr ih => cases e <;> simp [wireGroups, ih]

/-- One more complete bracket is one more group, whatever the radio returned in it. -/
theorem wireGroups_append_bracket (tr : List Event) {outs ins : List Byte} (hlen : ins.length = outs.length) :
    wireGroups (tr ++ bracketEvents outs ins) [] = wireGroups tr [] ++ [outs] := by
  rw [bracketEvents, wireGroups_append_sel, wireGroups_xfers_append outs ins _ [] hlen]
  rfl

/-- Two next states differ in nothing but what the radio returned, and sent the same bytes. -/
def SameButReplies (o o' : Host.Outcome State Fault Refusal) : Prop :=
  ∃ t u, o = .next t ∧ o' = .next u ∧
    ({ t with trace := [], replies := [] } : State) = { u with trace := [], replies := [] } ∧
    wireGroups t.trace [] = wireGroups u.trace []

section Discarded
variable {s : State} {tail : List (Option Byte)} {p q : List Byte}

/-- A command that is one write, then its end, keeps no byte that the radio returned. -/
theorem sameButReplies_of_write {i : Instr} {outs : List Byte} {m : Mode} (hp : p.length = outs.length)
    (hq : q.length = outs.length)
    (hexec : ∀ ins : List Byte, ins.length = outs.length →
      exec i { s with replies := ins.map some ++ tail } = .next
        { ({ s with replies := ins.map some ++ tail } : State).afterTransaction outs ins with
          mode := m, seq := none, result := some ⟨0, .ok⟩, declined := none }) :
    SameButReplies (exec i { s with replies := p.map some ++ tail })
      (exec i { s with replies := q.map some ++ tail }) :=
  ⟨_, _, hexec p hp, hexec q hq, rfl,
    (wireGroups_append_bracket s.trace hp).trans (wireGroups_append_bracket s.trace hq).symm⟩

end Discarded

/-- Settles O18: an admitted write command is one write; a guarded WRREG is turned away in both runs. -/
theorem bytesReturnedWhileWritingAreDiscarded : Obligations.BytesReturnedWhileWritingAreDiscarded := by
  intro s i tail p q hready hd hi
  have hans (ins : List Byte) : ({ s with replies := ins.map some ++ tail } : State).answers ins := ⟨tail, rfl⟩
  rcases hi with ⟨a, v, rfl, hp, hq⟩ | ⟨m, rfl, hp, hq⟩ | ⟨n, rfl, hp, hq⟩
  · by_cases hguard : a = 0x01 ∨ a = 0x12
    · have hturned (ins : List Byte) :=
        runCommand_declined (i := .wrreg a v) (first := 1) (body := wrregStep a v)
          (s := { s with replies := ins.map some ++ tail }) hready (wrregAdmission_guarded hd hguard)
      exact ⟨_, _, congrArg Host.Outcome.next (hturned p), congrArg Host.Outcome.next (hturned q), rfl, rfl⟩
    · obtain ⟨hmode, hflags⟩ := not_or.mp hguard
      refine sameButReplies_of_write (outs := [writeHeader a, v]) (m := s.mode) hp hq fun ins hlen => ?_
      exact exec_wrreg_answered hready (wrregAdmission_of_resetDone hd hmode hflags) hlen (hans ins)
  · exact sameButReplies_of_write (outs := [0x81, modeByte m]) (m := modeOf m) hp hq fun ins hlen =>
      congrArg Host.Outcome.next (modeCommand_answered (.setmode m) m hready hd hlen (hans ins))
  · refine sameButReplies_of_write (outs := 0x80 :: payloadBytes n.toNat s) (m := s.mode) (by simpa using hp)
      (by simpa using hq) fun ins hlen => ?_
    exact exec_wrfifo_answered hready hd (by simpa using hlen) (hans ins)

/-! ### A transfer never completes (R145) -/

section Dead
variable {s : State} {got : List Byte}

theorem exec_wrreg_dies {a : Addr} {v : Byte} (hready : s.ready) (hgate : wrregAdmission a s = none)
    (hlen : got.length < 2) (hdies : s.dies got) :
    exec (.wrreg a v) s = .next
      { s.stuckIn [writeHeader a, v] got with seq := some ⟨.wrreg a v, 1⟩, result := none, declined := none } := by
  have hdies' : (s.accept (.wrreg a v) 1).dies got := hdies
  rw [exec_wrreg, runCommand_offer hready hgate, wrregStep, memWrite_dies a [v] got _ hlen hdies']
  rfl

theorem exec_rdreg_dies {a : Addr} (hready : s.ready) (hgate : rdregAdmission a s = none) (hlen : got.length < 2)
    (hdies : s.dies got) :
    exec (.rdreg a) s = .next
      { s.stuckIn [readHeader a, 0x00] got with seq := some ⟨.rdreg a, 1⟩, result := none, declined := none } := by
  have hdies' : (s.accept (.rdreg a) 1).dies got := hdies
  rw [exec_rdreg, runCommand_offer hready hgate, rdregStep, memRead_dies a 1 got _ hlen hdies']
  rfl

theorem exec_wrfifo_dies {n : Byte} (hready : s.ready) (hd : s.resetDone = true)
    (hlen : got.length < n.toNat + 1) (hdies : s.dies got) :
    exec (.wrfifo n) s = .next
      { s.stuckIn (0x80 :: payloadBytes n.toNat s) got with
        seq := some ⟨.wrfifo n, 1⟩, result := none, declined := none } := by
  have hdies' : (s.accept (.wrfifo n) 1).dies got := hdies
  have hlen' : got.length < (payloadBytes n.toNat (s.accept (.wrfifo n) 1)).length + 1 := by simpa using hlen
  rw [exec_wrfifo, runCommand_offer hready (busAdmission_of_resetDone hd), wrfifoStep,
    memWrite_dies _ _ got _ hlen' hdies']
  rfl

/-- The bytes that came before the dead transfer are in the host's buffer (log entry 7). -/
theorem exec_rdfifo_dies {n : Byte} (hready : s.ready) (hd : s.resetDone = true)
    (hlen : got.length < n.toNat + 1) (hdies : s.dies got) :
    exec (.rdfifo n) s = .next
      { s.stuckIn (0x00 :: List.replicate n.toNat 0x00) got with
        rxBuf := Memory.writeRun s.rxBuf 0 (got.drop 1), seq := some ⟨.rdfifo n, 1⟩, result := none
        declined := none } := by
  have hdies' : (s.accept (.rdfifo n) 1).dies got := hdies
  rw [exec_rdfifo, runCommand_offer hready (busAdmission_of_resetDone hd), rdfifoStep,
    burstToHost_dies _ got _ hlen hdies']
  rfl

/-- SETMODE, or the pseudo-command of its mode: the owned mode is the old one (41_mode_fsm R161). -/
theorem modeCommand_dies (i : Instr) (m : RadioMode) (hready : s.ready) (hd : s.resetDone = true)
    (hlen : got.length < 2) (hdies : s.dies got) :
    runCommand i 1 busAdmission (setmodeStep m) s =
      { s.stuckIn [0x81, modeByte m] got with seq := some ⟨i, 1⟩, result := none, declined := none } := by
  have hdies' : (s.accept i 1).dies got := hdies
  rw [runCommand_offer hready (busAdmission_of_resetDone hd), setmodeStep, setModeThen_dies m _ _ got hlen hdies']
  rfl

end Dead

/-- Settles O17: each command is one transaction, and nothing goes on after it. -/
theorem commandWithADeadTransferStaysAtItsStep : Obligations.CommandWithADeadTransferStaysAtItsStep := by
  intro s i sent got hready hd hdies hlen
  constructor
  · rintro (⟨a, v, rfl, hmode, hflags, rfl⟩ | ⟨a, rfl, hflags, rfl⟩ | ⟨n, rfl, rfl⟩ | ⟨m, rfl, rfl⟩ | ⟨rfl, rfl⟩ |
      ⟨rfl, rfl⟩ | ⟨rfl, rfl⟩)
    · exact exec_wrreg_dies hready (wrregAdmission_of_resetDone hd hmode hflags) hlen hdies
    · exact exec_rdreg_dies hready (rdregAdmission_of_resetDone hd hflags) hlen hdies
    · exact exec_wrfifo_dies hready hd (by simpa using hlen) hdies
    · exact congrArg _ (modeCommand_dies (.setmode m) m hready hd hlen hdies)
    · exact congrArg _ (modeCommand_dies .sleep .sleep hready hd hlen hdies)
    · exact congrArg _ (modeCommand_dies .standby .standby hready hd hlen hdies)
    · exact congrArg _ (modeCommand_dies .listen .receiveContinuous hready hd hlen hdies)
  · rintro n rfl rfl
    exact exec_rdfifo_dies hready hd (by simpa using hlen) hdies

/-- Settles O27: the answered write takes the mode; a dead header or byte leaves it. -/
theorem setmodeWritesTheByteThenTakesTheMode : Obligations.SetmodeWritesTheByteThenTakesTheMode := by
  refine ⟨fun s m r₀ r₁ hready hd hans => ?_, fun s m r₀ rest hready hd hreplies => ?_⟩
  · have hafter := modeCommand_answered (.setmode m) m hready hd rfl hans
    cases m <;> exact congrArg _ hafter
  · obtain ⟨got, hlen, hdies⟩ : ∃ got : List Byte, got.length < 2 ∧ s.dies got := by
      rcases hreplies with h | h
      · exact ⟨[], by decide, rest, h.symm⟩
      · exact ⟨[r₀], by simp, rest, h.symm⟩
    exact ⟨_, congrArg Host.Outcome.next (modeCommand_dies (.setmode m) m hready hd hlen hdies), rfl, rfl, rfl, rfl⟩

/-! ### Commands without a transaction (R166, R212) -/

/-- Settles O29: the offer is taken and the pulse is its one step. -/
theorem resetPulsesAndForgetsTheMode : Obligations.ResetPulsesAndForgetsTheMode := by
  intro s hready
  rw [exec_reset, runCommand_offer hready rfl]
  rfl

/-- Settles O50: the offer is taken and answered in its one step. -/
theorem irqmaskWritesTheMask : Obligations.IrqmaskWritesTheMask := by
  intro s b hready
  have hseq : ({ s with irqMask := b } : State).seq = none := hready.2.2
  exact congrArg _ (runCommand_answered hready rfl hseq rfl)

end Sys2Proof.Machine
end

section
/-! The other placed frames (30_encoding R101, R103, R104), and the interrupt service at its start and at a dead
transfer (43_event_decoder R202, 40_register_interface R145). -/

namespace Sys2Proof.Machine

/-! ### Frames W1, WB, RB -/

theorem exec_w1 (a : Addr) (v : Byte) (s : State) :
    exec (.w1 a v) s = .next (performFrame false (transaction (writeHeader a) [v]) s) := rfl

theorem exec_wb (data : List Byte) (s : State) :
    exec (.wb data) s = .next (if data.length ≤ Config.maxPayload then performFrame false (transaction 0x80 data) s
      else s.decline .noCommand) := rfl

theorem exec_rb (n : Byte) (s : State) :
    exec (.rb n) s = .next (performFrame true (transaction 0x00 (List.replicate n.toNat 0x00)) s) := rfl

/-- Settles O51: the frame is one answered write that keeps nothing. -/
theorem frameW1 : Obligations.FrameW1 := by
  intro s a v r₀ r₁ hcs hans
  have hheader : 0x80 ||| a.setWidth 8 = writeHeader a := BitVec.or_comm _ _
  have hframe : performFrame false (transaction (writeHeader a) [v]) s =
      { s.afterTransaction [writeHeader a, v] [r₀, r₁] with kept := [] } := performFrame_answered hcs rfl hans
  rw [exec_w1, hframe, hheader]

/-- Settles O53: a payload within the bound is one answered write; a longer one is turned away. -/
theorem frameWB : Obligations.FrameWB := by
  intro s data ins r₀ hcs hlen hans
  rw [exec_wb, performFrame_answered hcs hlen hans]
  rfl

/-- Settles O54: the frame is one answered read that keeps the replies to the dummies. -/
theorem frameRB : Obligations.FrameRB := by
  intro s n r₀ ins hcs hlen hans
  have hframe := performFrame_answered (reads := true) (header := 0x00) (outs := List.replicate n.toNat 0x00) hcs
    (by rw [hlen, List.length_replicate]) hans
  rw [exec_rb, hframe]
  rfl

/-! ### The service -/

/-- Settles O56: the service enters and its first transaction is the answered read of IrqFlags. -/
theorem serviceBeginsByReadingTheFlags : Obligations.ServiceBeginsByReadingTheFlags :=
  fun _ _ _ hm hans => exec_irqsvc_reads hm hans

/-- Settles O58: nothing goes on after the read, so no byte is held; nothing goes on after the write, so no event takes
effect. -/
theorem serviceWithADeadTransferStaysInService : Obligations.ServiceWithADeadTransferStaysInService := by
  refine fun s got hlen hdies => ⟨fun hm => ?_, fun f hcs hsvc hf => ?_⟩
  · have hdies' : s.enterService.dies got := hdies
    rw [exec_irqsvc, irqsvcStep_of_mayStart hm, serviceRead, memRead_dies _ 1 got _ hlen hdies']
    rfl
  · rw [exec_irqsvc, irqsvcStep_of_flags hcs hsvc hf, serviceClear, memWrite_dies _ [0xFF] got s hlen hdies]
    rfl

end Sys2Proof.Machine
end

section
/-! The Radio Driver's commands step by step (42_radio_driver R181 to R187): each step that is a transaction, answered,
or stuck at a dead transfer. -/

namespace Sys2Proof.Machine

/-! ### INIT -/

/-- INIT as the machine runs it. -/
theorem exec_init (s : State) : exec .init s = .next (runCommand .init 0 openAdmission initStep s) := rfl

theorem exec_init_offer {s : State} (hready : s.ready) : exec .init s = .next (initStep 0 (s.accept .init 0)) := by
  rw [exec_init, runCommand_offer hready rfl]

theorem exec_init_atStep {k : Nat} {s : State} (h : s.atStep .init k) : exec .init s = .next (initStep k s) := by
  rw [exec_init, runCommand_resume h]

/-- What INIT sends in its steps 1 to 13, a transaction a step (42_radio_driver R181). -/
def initWire (c : RadioConfig) : List (List Byte) :=
  [0x81, 0x80] :: [0x81, 0x81] :: (initWrites c).map (fun w => [writeHeader w.1.addr, w.2]) ++ [[0x42, 0x00]]

/-- INIT's wire as 42_radio_driver R181 lists it. -/
theorem initWire_eq (c : RadioConfig) : initWire c =
    [[0x81, 0x80], [0x81, 0x81], [0x86, (frfWord c.frequency).extractLsb' 16 8],
      [0x87, (frfWord c.frequency).extractLsb' 8 8], [0x88, (frfWord c.frequency).extractLsb' 0 8],
      [0x9D, Config.packMc1 c.bw c.cr], [0x9E, Config.packMc2 c.sf c.crc], [0x89, Config.packPa c.power],
      [0xA0, c.preamble.extractLsb' 8 8], [0xA1, c.preamble.extractLsb' 0 8], [0x8E, 0x00], [0x8F, 0x00],
      [0x42, 0x00]] := by
  simp [initWire, initWrites, RadioReg.addr, writeHeader, frfMsb, frfMid, frfLsb, preambleMsb, preambleLsb]

/-- The owned mode after INIT's step `k`: only steps 1 and 2 write it. -/
def initMode (k : Nat) (m : Mode) : Mode :=
  match k with
  | 1 => .sleep
  | 2 => .standby
  | _ => m

theorem initMode_of_three_le {k : Nat} {m : Mode} (h : 3 ≤ k) : initMode k m = m := by
  obtain ⟨j, rfl⟩ := Nat.exists_eq_add_of_le' h
  rfl

/-- Steps 3 to 12 write the bytes of the applied configuration. -/
theorem initStep_config {c : RadioConfig} {k : Nat} {sent : List Byte} {s : State} (hcfg : s.cfg = some c)
    (hlo : 3 ≤ k) (hhi : k ≤ 12) (hsent : (initWire c)[k - 1]? = some sent) :
    ∃ a v, sent = [writeHeader a, v] ∧
      initStep k s = (memWrite a [v] s).andThen fun _ t => t.advance .init (k + 1) := by
  have hconfig : s.initConfig = c := by rw [State.initConfig, hcfg]; rfl
  subst hconfig
  interval_cases k <;> (cases hsent; exact ⟨_, _, rfl, rfl⟩)

/-- The identity check ends INIT; all 8 bits decide (42_radio_driver R183). -/
theorem identityCheck_eq (v : Byte) (s : State) :
    identityCheck v s =
      { s with
        initOk := decide (v = 0x12), seq := none
        result := some (if v = 0x12 then ⟨0, .ok⟩ else ⟨v, .hardwareAbsent⟩) } := by
  by_cases hv : v = 0x12
  · subst hv
    rfl
  · have habsent : identityCheck v s = ({ s with initOk := false } : State).raiseHardwareAbsent v := if_neg hv
    rw [habsent, if_neg hv, decide_eq_false hv]
    rfl

theorem initStep_version (s : State) :
    initStep 13 s = (memRead RadioReg.version.addr 1 s).andThen fun got t => identityCheck (firstByte got) t := rfl

/-- INIT's steps 1 to 12 when the radio answers: one write, and the next step (42_radio_driver R181). -/
theorem exec_init_answered {c : RadioConfig} {k : Nat} {sent got : List Byte} {s : State} (hcfg : s.cfg = some c)
    (hat : s.atStep .init k) (hlo : 1 ≤ k) (hhi : k ≤ 12) (hsent : (initWire c)[k - 1]? = some sent)
    (hlen : got.length = 2) (hans : s.answers got) :
    exec .init s = .next
      { s.afterTransaction sent got with mode := initMode k s.mode, seq := some ⟨.init, k + 1⟩ } := by
  rw [exec_init_atStep hat]
  obtain rfl | rfl | h3 : k = 1 ∨ k = 2 ∨ 3 ≤ k := by omega
  · cases hsent
    exact congrArg _ (setModeThen_answered_all hlen hans)
  · cases hsent
    exact congrArg _ (setModeThen_answered_all hlen hans)
  · obtain ⟨a, v, rfl, hstep⟩ := initStep_config hcfg h3 hhi hsent
    rw [hstep, memWrite_answered_all hlen hans, initMode_of_three_le h3]
    rfl

/-- INIT's last step when the radio answers (42_radio_driver R183). -/
theorem exec_init_identity {s : State} {r₀ v : Byte} (hat : s.atStep .init 13) (hans : s.answers [r₀, v]) :
    exec .init s = .next
      { s.afterTransaction [0x42, 0x00] [r₀, v] with
        initOk := decide (v = 0x12), seq := none
        result := some (if v = 0x12 then ⟨0, .ok⟩ else ⟨v, .hardwareAbsent⟩) } := by
  rw [exec_init_atStep hat, initStep_version, memRead_answered _ 1 r₀ [v] s rfl hans]
  exact congrArg _ (identityCheck_eq v _)

/-- INIT at a dead transfer: nothing of the step takes effect. -/
theorem exec_init_dies {c : RadioConfig} {k : Nat} {sent got : List Byte} {s : State} (hcfg : s.cfg = some c)
    (hat : s.atStep .init k) (hlo : 1 ≤ k) (hhi : k ≤ 13) (hsent : (initWire c)[k - 1]? = some sent)
    (hlen : got.length < 2) (hdies : s.dies got) : exec .init s = .next (s.stuckIn sent got) := by
  rw [exec_init_atStep hat]
  obtain rfl | rfl | rfl | ⟨h3, h12⟩ : k = 1 ∨ k = 2 ∨ k = 13 ∨ (3 ≤ k ∧ k ≤ 12) := by omega
  · cases hsent
    exact congrArg _ (setModeThen_dies .sleep _ s got hlen hdies)
  · cases hsent
    exact congrArg _ (setModeThen_dies .standby _ s got hlen hdies)
  · cases hsent
    rw [initStep_version, memRead_dies _ 1 got s hlen hdies]
    rfl
  · obtain ⟨a, v, rfl, hstep⟩ := initStep_config hcfg h3 h12 hsent
    rw [hstep, memWrite_dies a [v] got s hlen hdies]

/-- Settles O31: the offer is taken and step 0 is the configuration and the pulse. -/
theorem initBeginsWithTheReset : Obligations.InitBeginsWithTheReset := fun _ hready => exec_init_offer hready

/-- Settles O32: the first two steps are mode writes. -/
theorem initSleepsThenStandsBy : Obligations.InitSleepsThenStandsBy := by
  refine fun s r₀ r₁ hans => ⟨fun hat => ?_, fun hat => ?_⟩
  · rw [exec_init_atStep hat]
    exact congrArg _ (setModeThen_answered_all rfl hans)
  · rw [exec_init_atStep hat]
    exact congrArg _ (setModeThen_answered_all rfl hans)

/-- Settles O33: the listed bytes are the configuration's part of INIT's wire. -/
theorem initWritesTheConfiguration : Obligations.InitWritesTheConfiguration := by
  intro s c r₀ r₁ k sent hcfg hans hat hmem
  obtain ⟨hlo, hhi, hsent⟩ : 3 ≤ k ∧ k ≤ 12 ∧ (initWire c)[k - 1]? = some sent := by
    rw [initWire_eq]
    simp only [List.mem_cons, Prod.mk.injEq, List.not_mem_nil, or_false] at hmem
    rcases hmem with ⟨rfl, rfl⟩ | ⟨rfl, rfl⟩ | ⟨rfl, rfl⟩ | ⟨rfl, rfl⟩ | ⟨rfl, rfl⟩ | ⟨rfl, rfl⟩ | ⟨rfl, rfl⟩ |
      ⟨rfl, rfl⟩ | ⟨rfl, rfl⟩ | ⟨rfl, rfl⟩ <;> exact ⟨by decide, by decide, rfl⟩
  obtain ⟨a, v, rfl, hstep⟩ := initStep_config hcfg hlo hhi hsent
  rw [exec_init_atStep hat, hstep, memWrite_answered a [v] r₀ [r₁] s rfl hans]
  rfl

/-- Settles O34: the last step is the answered read of Version and the comparison. -/
theorem initEndsWithTheIdentityCheck : Obligations.InitEndsWithTheIdentityCheck :=
  fun _ _ _ hans hat => exec_init_identity hat hans

/-- Settles O37: the listed bytes are INIT's wire. -/
theorem initWithADeadTransferStaysAtItsStep : Obligations.InitWithADeadTransferStaysAtItsStep := by
  intro s c k sent got hcfg hat hdies hlen hmem
  obtain ⟨hlo, hhi, hsent, htwo⟩ :
      1 ≤ k ∧ k ≤ 13 ∧ (initWire c)[k - 1]? = some sent ∧ sent.length = 2 := by
    rw [initWire_eq]
    simp only [List.mem_cons, Prod.mk.injEq, List.not_mem_nil, or_false] at hmem
    rcases hmem with ⟨rfl, rfl⟩ | ⟨rfl, rfl⟩ | ⟨rfl, rfl⟩ | ⟨rfl, rfl⟩ | ⟨rfl, rfl⟩ | ⟨rfl, rfl⟩ | ⟨rfl, rfl⟩ |
      ⟨rfl, rfl⟩ | ⟨rfl, rfl⟩ | ⟨rfl, rfl⟩ | ⟨rfl, rfl⟩ | ⟨rfl, rfl⟩ | ⟨rfl, rfl⟩ <;>
      exact ⟨by decide, by decide, rfl, rfl⟩
  exact exec_init_dies hcfg hat hlo hhi hsent (htwo ▸ hlen) hdies

/-! ### SEND -/

section Send
variable {len : Half} {s : State} {got : List Byte}

theorem exec_send_offer (hready : s.ready) (hd : s.resetDone = true) :
    exec (.send len) s = .next (sendStep len 1 (s.accept (.send len) 1)) := by
  rw [exec_send, runCommand_offer hready (busAdmission_of_resetDone hd)]

theorem exec_send_atStep {k : Nat} (h : s.atStep (.send len) k) : exec (.send len) s = .next (sendStep len k s) := by
  rw [exec_send, runCommand_resume h]

/-- The first step of a SEND that is not too long, past the length test. -/
theorem sendStep_one (hlen : len.toNat ≤ 255) :
    sendStep len 1 s = setModeThen .standby (State.advance (.send len) 2) s := if_neg (Nat.not_lt.mpr hlen)

/-- SEND's steps 2 to 4, one write each (42_radio_driver R184). -/
theorem sendStep_write {k : Nat} {sent : List Byte} (h : (k, sent) ∈
      [(2, [0x8D, 0x00]), (3, 0x80 :: payloadBytes len.toNat s), (4, [0xA2, len.setWidth 8])]) :
    ∃ a vs, sent = writeHeader a :: vs ∧
      sendStep len k s = (memWrite a vs s).andThen fun _ t => t.advance (.send len) (k + 1) := by
  simp only [List.mem_cons, Prod.mk.injEq, List.not_mem_nil, or_false] at h
  rcases h with ⟨rfl, rfl⟩ | ⟨rfl, rfl⟩ | ⟨rfl, rfl⟩
  · exact ⟨RadioReg.fifoAddrPtr.addr, _, rfl, rfl⟩
  · exact ⟨RadioReg.fifo.addr, _, rfl, rfl⟩
  · exact ⟨RadioReg.payloadLength.addr, _, rfl, rfl⟩

theorem exec_send_starts (hlen : len.toNat ≤ 255) (hready : s.ready) (hd : s.resetDone = true) (htwo : got.length = 2)
    (hans : s.answers got) :
    exec (.send len) s = .next
      { s.afterTransaction [0x81, 0x81] got with
        mode := .standby, seq := some ⟨.send len, 2⟩, result := none, declined := none } := by
  have hans' : (s.accept (.send len) 1).answers got := hans
  rw [exec_send_offer hready hd, sendStep_one hlen, setModeThen_answered_all htwo hans']
  rfl

theorem exec_send_writes {k : Nat} {sent : List Byte} (hat : s.atStep (.send len) k) (hsent : (k, sent) ∈
      [(2, [0x8D, 0x00]), (3, 0x80 :: payloadBytes len.toNat s), (4, [0xA2, len.setWidth 8])])
    (hgot : got.length = sent.length) (hans : s.answers got) :
    exec (.send len) s = .next { s.afterTransaction sent got with seq := some ⟨.send len, k + 1⟩ } := by
  obtain ⟨a, vs, rfl, hstep⟩ := sendStep_write hsent
  rw [exec_send_atStep hat, hstep, memWrite_answered_all hgot hans]
  rfl

theorem exec_send_transmits (hat : s.atStep (.send len) 5) (htwo : got.length = 2) (hans : s.answers got) :
    exec (.send len) s = .next
      { s.afterTransaction [0x81, 0x83] got with mode := .transmit, seq := none, result := some ⟨0, .ok⟩ } := by
  rw [exec_send_atStep hat]
  exact congrArg _ (setModeThen_answered_all htwo hans)

end Send

/-- Settles O39: the mode writes at both ends, and a write at each step between them. -/
theorem sendStepByStep : Obligations.SendStepByStep := by
  intro s len r₀ ins hlen
  refine ⟨fun hready hd hans => exec_send_starts hlen hready hd rfl hans,
    fun hat hans => exec_send_writes hat (by simp) rfl hans, fun hat hbuf hins hans => ?payload,
    fun hat hans => exec_send_writes hat (by simp) rfl hans, fun hat hans => exec_send_transmits hat rfl hans⟩
  case payload =>
    have hgot : (r₀ :: ins).length = (0x80 :: payloadBytes len.toNat s).length := by simp [hins]
    rw [exec_send_writes hat (by simp) hgot hans, payloadBytes_eq_take hbuf]

/-- Settles O41: nothing goes on after the dead write of a step. -/
theorem sendWithADeadTransferStaysAtItsStep : Obligations.SendWithADeadTransferStaysAtItsStep := by
  refine fun s len got hlen hdies => ⟨fun hready hd htwo => ?_, fun k sent hat hshort hmem => ?_⟩
  · have hdies' : (s.accept (.send len) 1).dies got := hdies
    rw [exec_send_offer hready hd, sendStep_one hlen, setModeThen_dies _ _ _ got htwo hdies']
    rfl
  · rw [exec_send_atStep hat]
    have hmem' : (k, sent) ∈
          [(2, [0x8D, 0x00]), (3, 0x80 :: payloadBytes len.toNat s), (4, [0xA2, len.setWidth 8])] ∨
        k = 5 ∧ sent = [0x81, 0x83] := by simpa [or_assoc] using hmem
    rcases hmem' with hwrite | ⟨rfl, rfl⟩
    · obtain ⟨a, vs, rfl, hstep⟩ := sendStep_write hwrite
      rw [hstep, memWrite_dies a vs got s hshort hdies]
    · exact congrArg _ (setModeThen_dies .transmit State.finishOk s got hshort hdies)

/-! ### RECV -/

section Recv
variable {cap : Half} {s : State}

theorem exec_recv_readsPointer {r₀ p : Byte} (hat : s.atStep (.recv cap) 2) (hans : s.answers [r₀, p]) :
    exec (.recv cap) s = .next
      { s.afterTransaction [0x10, 0x00] [r₀, p] with recvPtr := p, seq := some ⟨.recv cap, 3⟩ } := by
  rw [exec_recv_atStep hat, recvStep, memRead_answered _ 1 r₀ [p] s rfl hans]
  rfl

theorem exec_recv_writesPointer {r₀ r₁ : Byte} (hat : s.atStep (.recv cap) 3) (hans : s.answers [r₀, r₁]) :
    exec (.recv cap) s = .next
      { s.afterTransaction [0x8D, s.recvPtr] [r₀, r₁] with seq := some ⟨.recv cap, 4⟩ } := by
  rw [exec_recv_atStep hat, recvStep, memWrite_answered _ [s.recvPtr] r₀ [r₁] s rfl hans]
  rfl

end Recv

/-- Settles O44: the first step reads the length behind the closed mask, the second reads the address, the third writes
it. -/
theorem recvStepByStep : Obligations.RecvStepByStep :=
  fun _ _ _ _ hcap hans => ⟨fun hready hd hev => exec_recv_readsLength hcap hready hd hev hans,
    fun hat => exec_recv_readsPointer hat hans, fun hat => exec_recv_writesPointer hat hans⟩

/-- Settles O46: nothing goes on after the dead transaction of a step; the last one has streamed its bytes to the buffer
already (log entry 7). -/
theorem recvWithADeadTransferStaysAtItsStep : Obligations.RecvWithADeadTransferStaysAtItsStep := by
  intro s cap got hcap hdies
  refine ⟨fun hready hd hev hlen => ?_, fun hat hlen => ?_, fun hat hlen => ?_, fun hat hlen => ?_⟩
  · have hev' : (s.accept (.recv cap) 1).evRx = true := hev
    have hdies' : ((s.accept (.recv cap) 1).openMask.setFlag .rxDone false).dies got := hdies
    rw [exec_recv_offer hcap hready hd, recvStep_one_of_event hev', memRead_dies _ 1 got _ hlen hdies']
    rfl
  · rw [exec_recv_atStep hat, recvStep, memRead_dies _ 1 got s hlen hdies]
    rfl
  · rw [exec_recv_atStep hat, recvStep, memWrite_dies _ [s.recvPtr] got s hlen hdies]
    rfl
  · rw [← clampLen_eq_min] at hlen ⊢
    rw [exec_recv_atStep hat, recvStep, burstToHost_dies _ got s hlen hdies]
    rfl

end Sys2Proof.Machine
end

section
/-! A whole INIT, SEND and RECV, from the offer to the result (42_radio_driver R181, R184, R187): one step after the
other, each handing the bus, the answers and the quiet line on to the next. -/

namespace Sys2Proof.Machine

/-! ### Steps of a command with nothing between them -/

theorem core_run_add {m : Nat} {s t : State} (h : Sys2Proof.core.run m s = .next t) (n : Nat) :
    Sys2Proof.core.run (m + n) s = Sys2Proof.core.run n t := by
  induction m generalizing s with
  | zero =>
    cases h
    rw [Nat.zero_add]
  | succ m ih =>
    obtain ⟨u, hu⟩ := everyStepAnswers s
    rw [core_run_succ hu] at h
    rw [Nat.succ_add, core_run_succ hu, ih h]

theorem core_run_one {s t : State} (h : step s = .next t) : Sys2Proof.core.run 1 s = .next t := core_run_succ h 0

/-- The state after one more step's empty entry of levels. -/
def State.later (s : State) : State := { s with irqIn := s.irqIn.tail }

theorem irqIn_of_quietFor {n : Nat} {s : State} (h : quietFor (n + 1) s) :
    s.irqIn = [] :: s.irqIn.tail ∧ quietFor n s.later := by
  cases hin : s.irqIn with
  | nil => simp [quietFor, hin] at h
  | cons ls rest =>
    rw [quietFor, hin, List.take_succ_cons, List.replicate_succ, List.cons.injEq] at h
    obtain ⟨rfl, hrest⟩ := h
    refine ⟨rfl, ?_⟩
    rw [quietFor, State.later, hin]
    exact hrest

theorem sampleIrq_of_quietFor {n : Nat} {s : State} (h : quietFor (n + 1) s) : sampleIrq s = s.later :=
  sampleIrq_of_quiet (irqIn_of_quietFor h).1

/-- The main context's turn for `n` more steps: no edge is pending and the line stays quiet, no frame is placed. -/
structure State.Quiet (n : Nat) (s : State) : Prop where
  noFrame : s.busReq = none
  noEdge : s.irqPend = false
  line : quietFor n s

theorem State.Quiet.mainsTurn {n : Nat} {s : State} (h : s.Quiet (n + 1)) (hcs : s.cs = false)
    (hsvc : s.inService = false) : s.mainsTurn := by
  refine ⟨hcs, hsvc, ?_, h.noFrame⟩
  rw [sampleIrq_of_quietFor h.line]
  exact serviceMayStart_of_noEdge h.noEdge

theorem State.Quiet.offer {n : Nat} {s : State} {o : Offer} {rest : List (Option Offer)} {i : Instr}
    (h : s.Quiet (n + 1)) (hready : s.ready) (hin : s.hostIn = some o :: rest) (hword : decodeCommand o.word = .ok i) :
    step s = exec i (s.later.takeOffer o rest) := by
  obtain ⟨hcs, hsvc, hseq⟩ := hready
  rw [step_offer (h.mainsTurn hcs hsvc) hseq hin hword, sampleIrq_of_quietFor h.line]

/-- The running command `i` at its step `k`, the next `n` steps its own, the radio answering `left`. -/
structure State.Standing (i : Instr) (k n : Nat) (left : List Byte) (s : State) : Prop extends s.Quiet n where
  position : s.atStep i k
  answers : s.answers left

/-- After a step that was one answered transaction: the mode it wrote or kept, the position it goes on at. -/
def State.stepped (sent got : List Byte) (m : Mode) (p : Option SeqPos) (s : State) : State :=
  { s.later.afterTransaction sent got with mode := m, seq := p }

section Standing
variable {i : Instr} {k n : Nat} {left : List Byte} {s : State}

theorem State.Standing.step (h : s.Standing i k (n + 1) left) :
    Machine.step s = exec i s.later := by
  obtain ⟨hcs, hsvc, hseq⟩ := h.position
  rw [step_resume (h.mainsTurn hcs hsvc) hseq, sampleIrq_of_quietFor h.line]

theorem State.Standing.stepped {sent got : List Byte} {m : Mode} {k' : Nat} (h : s.Standing i k (n + 1) (got ++ left))
    (hlen : got.length = sent.length) : (s.stepped sent got m (some ⟨i, k'⟩)).Standing i k' n left where
  noFrame := h.noFrame
  noEdge := h.noEdge
  line := (irqIn_of_quietFor h.line).2
  position := ⟨rfl, h.position.2.1, rfl⟩
  answers := State.answers_afterTransaction (s := s.later) hlen h.answers

end Standing

/-! ### The wire of a run -/

@[simp] theorem offBus_append (es es' : List Event) : offBus (es ++ es') = offBus es ++ offBus es' :=
  List.filter_append ..

theorem offBus_xfers (outs ins : List Byte) : offBus (List.zipWith Event.xfer outs ins) = [] := by
  induction outs generalizing ins with
  | nil => rfl
  | cons o outs ih =>
    cases ins with
    | nil => rfl
    | cons i ins => exact ih ins

@[simp] theorem offBus_bracket (outs ins : List Byte) : offBus (bracketEvents outs ins) = [] := by
  have hsplit : bracketEvents outs ins = [.sel] ++ List.zipWith Event.xfer outs ins ++ [.desel] := by
    simp [bracketEvents]
  rw [hsplit, offBus_append, offBus_append, offBus_xfers]
  rfl

/-! ### INIT -/

/-- A running INIT with `c`, begun from `s₀`, before its step `k`, with `n` quiet steps to come. -/
structure InitRun (c : RadioConfig) (s₀ : State) (k n : Nat) (left : List Byte) (s : State) : Prop
    extends s.Standing .init k n left where
  config : s.cfg = some c
  wire : ∃ new, s.trace = s₀.trace ++ new ∧ wireGroups new [] = (initWire c).take (k - 1) ∧ offBus new = resetPulse
  mode : 3 ≤ k → s.mode = .standby
  awake : s.resetDone = true ∧ s.nreset = true
  kept : s.evTx = s₀.evTx ∧ s.evRx = s₀.evRx ∧ s.evCrc = s₀.evCrc ∧ s.irqMask = s₀.irqMask

section InitRun
variable {c : RadioConfig} {s₀ s : State} {k n : Nat} {left : List Byte}

theorem length_of_mem_initWire {sent : List Byte} (h : sent ∈ initWire c) : sent.length = 2 := by
  have htwo : ∀ sent ∈ initWire c, sent.length = 2 := by
    rw [initWire_eq]
    simp
  exact htwo sent h

theorem length_initWire (c : RadioConfig) : (initWire c).length = 13 := by
  rw [initWire_eq]
  rfl

theorem initMode_eq_standby {m : Mode} (hk : 2 ≤ k) (hm : 3 ≤ k → m = .standby) : initMode k m = .standby := by
  obtain rfl | h3 : k = 2 ∨ 3 ≤ k := by omega
  · rfl
  · rw [initMode_of_three_le h3, hm h3]

/-- One of INIT's steps 1 to 12. -/
theorem InitRun.next {got : List Byte} (h : InitRun c s₀ k (n + 1) (got ++ left) s) (hlo : 1 ≤ k) (hhi : k ≤ 12)
    (hlen : got.length = 2) : ∃ t, step s = .next t ∧ InitRun c s₀ (k + 1) n left t := by
  have hwire : k - 1 < (initWire c).length := by
    rw [length_initWire]
    omega
  have hsent := List.getElem?_eq_getElem hwire
  set sent := (initWire c)[k - 1]
  have htwo : got.length = sent.length := hlen.trans (length_of_mem_initWire (List.getElem_mem hwire)).symm
  obtain ⟨new, htrace, hgroups, hoff⟩ := h.wire
  have hans : s.later.answers got := State.answers_of_append h.answers
  refine ⟨s.stepped sent got (initMode k s.mode) (some ⟨.init, k + 1⟩), ?_,
    { h.toStanding.stepped htwo with
      config := h.config
      wire := ⟨new ++ bracketEvents sent got, ?trace, ?groups, by rw [offBus_append, hoff, offBus_bracket]; rfl⟩
      mode := fun h3 => initMode_eq_standby (Nat.le_of_succ_le_succ h3) h.mode
      awake := h.awake
      kept := h.kept }⟩
  · rw [h.toStanding.step]
    exact exec_init_answered h.config h.position hlo hhi hsent hlen hans
  case trace => rw [← List.append_assoc, ← htrace]; rfl
  case groups =>
    obtain ⟨j, rfl⟩ := Nat.exists_eq_add_of_le' hlo
    rw [wireGroups_append_bracket new htwo, hgroups]
    exact (List.take_succ_eq_append_getElem hwire).symm

/-- INIT's steps from `k` to 12, two answers each. -/
theorem InitRun.run {m : Nat} {used : List Byte} (h : InitRun c s₀ k (m + 1) (used ++ left) s) (hlo : 1 ≤ k)
    (hk : k + m = 13) (hlen : used.length = 2 * m) :
    ∃ t, Sys2Proof.core.run m s = .next t ∧ InitRun c s₀ 13 1 left t := by
  induction m generalizing k used s with
  | zero =>
    obtain rfl : k = 13 := hk
    obtain rfl : used = [] := List.length_eq_zero_iff.mp hlen
    exact ⟨s, rfl, h⟩
  | succ m ih =>
    have hsplit : used ++ left = used.take 2 ++ (used.drop 2 ++ left) := by
      rw [← List.append_assoc, List.take_append_drop]
    rw [hsplit] at h
    obtain ⟨t, hstep, ht⟩ := h.next hlo (by omega) (by rw [List.length_take]; omega)
    rw [core_run_succ hstep]
    exact ih ht (Nat.le_succ_of_le hlo) (by omega) (by rw [List.length_drop]; omega)

end InitRun

theorem initRun_of_offer {s : State} {o : Offer} {rest : List (Option Offer)} {c : RadioConfig} {left : List Byte}
    {n : Nat} (hready : s.ready) (hquiet : s.Quiet (n + 1)) (hin : s.hostIn = some o :: rest)
    (hword : o.word = 0x11000000) (hconfig : o.config = some c) (hans : s.answers left) :
    ∃ t, step s = .next t ∧ InitRun c s 1 n left t := by
  have hread : decodeCommand o.word = .ok .init := by
    rw [hword]
    decide
  have hready' : (s.later.takeOffer o rest).ready := hready
  rw [hquiet.offer hready hin hread, initBeginsWithTheReset _ hready']
  exact ⟨_, rfl,
    { noFrame := hquiet.noFrame
      noEdge := hquiet.noEdge
      line := (irqIn_of_quietFor hquiet.line).2
      position := ⟨hready.1, hready.2.1, rfl⟩
      answers := hans
      config := by rw [State.takeOffer_cfgIn, hconfig]; rfl
      wire := ⟨resetPulse, rfl, rfl, rfl⟩
      mode := fun h3 => absurd h3 (by decide)
      awake := ⟨rfl, rfl⟩
      kept := ⟨rfl, rfl, rfl, rfl⟩ }⟩

/-- Settles O36: the offer's step, the twelve writes, and the read of Version. -/
theorem wholeInit : Obligations.WholeInit := by
  intro s o rest c ins v hready hframe hedge hquiet hin hword hconfig hlen hans
  obtain ⟨used, r, rfl⟩ : ∃ used r, ins = used ++ [r] := by
    rcases List.eq_nil_or_concat' ins with rfl | h
    · cases hlen
    · exact h
  obtain ⟨t₁, hstep, h₁⟩ := initRun_of_offer hready ⟨hframe, hedge, hquiet⟩ hin hword hconfig hans
  rw [List.append_assoc] at h₁
  obtain ⟨t, hrun, h⟩ := h₁.run (m := 12) (le_refl 1) rfl (by simpa using hlen)
  obtain ⟨new, htrace, hgroups, hoff⟩ := h.wire
  obtain ⟨hevTx, hevRx, hevCrc, hmask⟩ := h.kept
  have hlast : step t = exec .init t.later := h.toStanding.step
  have hans' : t.later.answers [r, v] := h.answers
  have hat : t.later.atStep .init 13 := h.position
  rw [exec_init_identity hat hans'] at hlast
  have hall := (core_run_succ hstep 13).trans ((core_run_add hrun 1).trans (core_run_one hlast))
  refine ⟨_, new ++ bracketEvents [0x42, 0x00] [r, v], hall, ?trace, ?pulse, ?groups, h.mode (by decide), h.awake.1,
    rfl, h.config, rfl, rfl, hevTx, hevRx, hevCrc, hmask, rfl, h.awake.2⟩
  case trace => rw [← List.append_assoc, ← htrace]; rfl
  case pulse => rw [offBus_append, hoff, offBus_bracket]; rfl
  case groups =>
    rw [wireGroups_append_bracket (outs := [0x42, 0x00]) (ins := [r, v]) new rfl, hgroups, initWire_eq]
    rfl

/-! ### SEND -/

/-- The word of a command that `encode` gives it is read as that command, in its canonical spelling. -/
theorem decodeCommand_of_encode {i : Instr} {c : CmdWord} (hcode : encode i = .cmd c) (hwf : i.wf = true)
    (hsvc : i ≠ .irqsvc) : decodeCommand c = .ok i.canonical := by
  have hdecode := decodeAfterEncode i hwf hsvc
  rwa [hcode] at hdecode

/-- An op byte over an operand that fills the low half (30_encoding R120). -/
theorem or_setWidth_eq_commandWord (op : Byte) (w : Half) :
    commandWord op 0 0 ||| w.setWidth 32 = commandWord op 0 w := by
  have hfill : w.setWidth 32 = (0 : Half) ++ w := BitVec.setWidth_eq_append (by decide)
  calc commandWord op 0 0 ||| w.setWidth 32
      = ((op ++ (0 : Byte)) ++ (0 : Half)) ||| ((0 : Half) ++ w) := by rw [hfill]; rfl
    _ = ((op ++ (0 : Byte)) ||| (0 : Half)) ++ ((0 : Half) ||| w) := BitVec.or_append
    _ = commandWord op 0 w := by simp [commandWord]

theorem exists_append_of_length {l : List Byte} {m n : Nat} (h : l.length = m + n) :
    ∃ a b, l = a ++ b ∧ a.length = m ∧ b.length = n :=
  ⟨l.take m, l.drop m, (List.take_append_drop m l).symm, by rw [List.length_take]; omega,
    by rw [List.length_drop]; omega⟩

/-- A buffer that holds exactly the payload is sent as it is. -/
theorem payloadBytes_eq_of_txBuf {n : Nat} {payload : List Byte} {s : State} (hbuf : s.txBuf = payload)
    (hsize : payload.length = n) : payloadBytes n s = payload := by
  subst hbuf hsize
  rw [payloadBytes_eq_take (le_refl _), List.take_length]

/-- SEND leaves these registers of `s` alone (42_radio_driver R184, R186). -/
structure State.SendKeeps (s t : State) : Prop where
  evTx : t.evTx = s.evTx
  evRx : t.evRx = s.evRx
  evCrc : t.evCrc = s.evCrc
  initOk : t.initOk = s.initOk
  cfg : t.cfg = s.cfg
  irqMask : t.irqMask = s.irqMask

theorem State.SendKeeps.trans {s t u : State} (h : s.SendKeeps t) (h' : t.SendKeeps u) : s.SendKeeps u :=
  ⟨h'.evTx.trans h.evTx, h'.evRx.trans h.evRx, h'.evCrc.trans h.evCrc, h'.initOk.trans h.initOk, h'.cfg.trans h.cfg,
    h'.irqMask.trans h.irqMask⟩

section Send
variable {len : Half} {s : State} {k n : Nat} {sent got left : List Byte}

/-- One of SEND's steps 2 to 4 on a quiet line. -/
theorem State.Standing.send_writes (h : s.Standing (.send len) k (n + 1) (got ++ left)) (hsent : (k, sent) ∈
      [(2, [0x8D, 0x00]), (3, 0x80 :: payloadBytes len.toNat s.later), (4, [0xA2, len.setWidth 8])])
    (hgot : got.length = sent.length) :
    Machine.step s = .next (s.stepped sent got s.mode (some ⟨.send len, k + 1⟩)) ∧
      (s.stepped sent got s.mode (some ⟨.send len, k + 1⟩)).Standing (.send len) (k + 1) n left ∧
      s.SendKeeps (s.stepped sent got s.mode (some ⟨.send len, k + 1⟩)) := by
  have hans : s.later.answers got := State.answers_of_append h.answers
  refine ⟨?_, h.stepped hgot, ⟨rfl, rfl, rfl, rfl, rfl, rfl⟩⟩
  rw [h.step]
  exact exec_send_writes h.position hsent hgot hans

/-- SEND's last step on a quiet line. -/
theorem State.Standing.send_transmits (h : s.Standing (.send len) 5 (n + 1) got) (hgot : got.length = 2) :
    Machine.step s = .next { s.stepped [0x81, 0x83] got .transmit none with result := some ⟨0, .ok⟩ } ∧
      s.SendKeeps { s.stepped [0x81, 0x83] got .transmit none with result := some ⟨0, .ok⟩ } := by
  have hans : s.later.answers got := h.answers
  refine ⟨?_, ⟨rfl, rfl, rfl, rfl, rfl, rfl⟩⟩
  rw [h.step]
  exact exec_send_transmits h.position hgot hans

end Send

/-- SEND's first step, from the offer on a quiet line: the payload is in place. -/
theorem send_of_offer {s : State} {o : Offer} {rest : List (Option Offer)} {len : Half} {payload got left : List Byte}
    {n : Nat} (hready : s.ready) (hd : s.resetDone = true) (hquiet : s.Quiet (n + 1)) (hin : s.hostIn = some o :: rest)
    (hword : o.word = 0x13000000 ||| len.setWidth 32) (hpayload : o.payload = some payload) (hlen : len.toNat ≤ 255)
    (htwo : got.length = 2) (hans : s.answers (got ++ left)) :
    ∃ t, step s = .next t ∧ t.Standing (.send len) 2 n left ∧ t.txBuf = payload ∧
      t.trace = s.trace ++ bracketEvents [0x81, 0x81] got ∧ s.SendKeeps t := by
  have hcode : encode (.send len) = .cmd o.word := by
    rw [hword]
    exact congrArg Code.cmd (or_setWidth_eq_commandWord 0x13 len).symm
  have hready' : (s.later.takeOffer o rest).ready := hready
  have hans' : (s.later.takeOffer o rest).answers got := State.answers_of_append (s := s) hans
  rw [hquiet.offer hready hin (decodeCommand_of_encode hcode rfl nofun)]
  refine ⟨_, exec_send_starts hlen hready' hd htwo hans', ?_, ?_, rfl, ⟨rfl, rfl, rfl, rfl, rfl, rfl⟩⟩
  · exact
      { noFrame := hquiet.noFrame
        noEdge := hquiet.noEdge
        line := (irqIn_of_quietFor hquiet.line).2
        position := ⟨rfl, hready.2.1, rfl⟩
        answers := State.answers_afterTransaction (s := s) (sent := [0x81, 0x81]) htwo hans }
  · exact congrArg (fun p => p.getD s.txBuf) hpayload

/-- Settles O40: the offer's step, the three writes between the mode writes, and the last mode write. -/
theorem wholeSend : Obligations.WholeSend := by
  intro s o rest len payload ins hready hframe hd hedge hquiet hin hword hpayload hsize hlen hins hans
  obtain ⟨a, ins, rfl, ha, hins⟩ := exists_append_of_length (l := ins) (m := 2) (n := len.toNat + 7) (by omega)
  obtain ⟨b, ins, rfl, hb, hins⟩ := exists_append_of_length (l := ins) (m := 2) (n := len.toNat + 5) (by omega)
  obtain ⟨c, ins, rfl, hc, hins⟩ := exists_append_of_length (l := ins) (m := len.toNat + 1) (n := 4) (by omega)
  obtain ⟨d, e, rfl, hd₂, he⟩ := exists_append_of_length (l := ins) (m := 2) (n := 2) hins
  obtain ⟨t, hstep₁, h₁, hbuf, htrace, hkept₁⟩ :=
    send_of_offer hready hd ⟨hframe, hedge, hquiet⟩ hin hword hpayload hlen ha hans
  have hc' : c.length = (0x80 :: payload).length := by rw [hc, List.length_cons, hsize]
  obtain ⟨hstep₂, h₂, hkept₂⟩ := h₁.send_writes (sent := [0x8D, 0x00]) (by simp) hb
  have hsent := payloadBytes_eq_of_txBuf (s := (t.stepped [0x8D, 0x00] b t.mode (some ⟨.send len, 3⟩)).later) hbuf hsize
  obtain ⟨hstep₃, h₃, hkept₃⟩ := h₂.send_writes (sent := 0x80 :: payload) (by rw [hsent]; simp) hc'
  obtain ⟨hstep₄, h₄, hkept₄⟩ := h₃.send_writes (sent := [0xA2, len.setWidth 8]) (by simp) hd₂
  obtain ⟨hstep₅, hkept₅⟩ := h₄.send_transmits he
  have hrun := (core_run_succ hstep₁ 4).trans ((core_run_succ hstep₂ 3).trans ((core_run_succ hstep₃ 2).trans
    ((core_run_succ hstep₄ 1).trans (core_run_one hstep₅))))
  have hkept := hkept₁.trans (hkept₂.trans (hkept₃.trans (hkept₄.trans hkept₅)))
  refine ⟨_, bracketEvents [0x81, 0x81] a ++ (bracketEvents [0x8D, 0x00] b ++ (bracketEvents (0x80 :: payload) c ++
    (bracketEvents [0xA2, len.setWidth 8] d ++ bracketEvents [0x81, 0x83] e))), hrun, ?trace, by simp, ?groups, rfl,
    rfl, rfl, hkept.evTx, hkept.evRx, hkept.evCrc, hkept.initOk, hkept.cfg, hkept.irqMask, rfl⟩
  case trace =>
    simp only [State.stepped, State.afterTransaction, State.later, htrace, List.append_assoc]
  case groups =>
    have hlast : wireGroups (bracketEvents [0x81, 0x83] e) [] = [[0x81, 0x83]] := wireGroups_append_bracket [] he
    rw [wireGroups_bracket_append _ _ _ _ ha, wireGroups_bracket_append _ _ _ _ hb, 
      wireGroups_bracket_append _ _ _ _ hc', wireGroups_bracket_append _ _ _ _ hd₂, hlast]

/-! ### RECV -/

/-- A running RECV that read the length `len`, begun from `s₀`, before its step `k`: the event is consumed and the mask
closed, so that no level of the line gives the step away (42_radio_driver R187, 43_event_decoder R201). -/
structure RecvRun (cap : Half) (len : Byte) (s₀ : State) (k : Nat) (left : List Byte) (s : State) : Prop where
  position : s.atStep (.recv cap) k
  noFrame : s.busReq = none
  answers : s.answers left
  length : s.recvLen = len
  oldMask : s.maskOld = s₀.irqMask
  consumed : s.evRx = false
  kept : s.evTx = s₀.evTx ∧ s.evCrc = s₀.evCrc ∧ s.mode = s₀.mode

section RecvRun
variable {cap : Half} {len : Byte} {s₀ s : State} {k : Nat} {left : List Byte}

/-- RECV's next step is its own, whatever the line does. -/
theorem RecvRun.step (h : RecvRun cap len s₀ k left s) : Machine.step s = exec (.recv cap) (sampleIrq s) := by
  obtain ⟨hcs, hsvc, hseq⟩ := h.position
  have hm : (sampleIrq s).serviceMayStart = false := by simp [State.serviceMayStart, hseq, seqAllowsService]
  exact step_resume ⟨hcs, hsvc, hm, h.noFrame⟩ hseq

theorem RecvRun.sampled (h : RecvRun cap len s₀ k left s) : RecvRun cap len s₀ k left (sampleIrq s) := { h with }

/-- One more answered transaction, at most the pointer written, and the next step. -/
theorem RecvRun.after {sent got : List Byte} {p : Byte} {k' : Nat} (h : RecvRun cap len s₀ k (got ++ left) s)
    (hlen : got.length = sent.length) :
    RecvRun cap len s₀ k' left
      { (sampleIrq s).afterTransaction sent got with recvPtr := p, seq := some ⟨.recv cap, k'⟩ } where
  position := ⟨rfl, h.position.2.1, rfl⟩
  noFrame := h.noFrame
  answers := State.answers_afterTransaction (s := sampleIrq s) hlen h.answers
  length := h.length
  oldMask := h.oldMask
  consumed := h.consumed
  kept := h.kept

theorem RecvRun.readsPointer {r₀ p : Byte} (h : RecvRun cap len s₀ 2 ([r₀, p] ++ left) s) :
    ∃ t, Machine.step s = .next t ∧ RecvRun cap len s₀ 3 left t ∧ t.recvPtr = p ∧
      t.trace = s.trace ++ bracketEvents [0x10, 0x00] [r₀, p] := by
  rw [h.step, exec_recv_readsPointer h.sampled.position (State.answers_of_append h.sampled.answers)]
  exact ⟨_, rfl, h.after rfl, rfl, rfl⟩

theorem RecvRun.writesPointer {r₀ r₁ : Byte} (h : RecvRun cap len s₀ 3 ([r₀, r₁] ++ left) s) :
    ∃ t, Machine.step s = .next t ∧ RecvRun cap len s₀ 4 left t ∧
      t.trace = s.trace ++ bracketEvents [0x8D, s.recvPtr] [r₀, r₁] := by
  rw [h.step, exec_recv_writesPointer h.sampled.position (State.answers_of_append h.sampled.answers)]
  exact ⟨_, rfl, h.after rfl, rfl⟩

/-- RECV's last step: the packet delivered, the mask as it was at the offer. -/
theorem RecvRun.delivers {r₀ : Byte} {bytes : List Byte} (h : RecvRun cap len s₀ 4 (r₀ :: bytes) s)
    (hlen : bytes.length = clampLen len cap) :
    ∃ t, Machine.step s = .next t ∧
      t.trace = s.trace ++ bracketEvents (0x00 :: List.replicate bytes.length 0x00) (r₀ :: bytes) ∧
      t.rxBuf = Memory.writeRun s.rxBuf 0 bytes ∧
      t.result = some ⟨BitVec.ofNat 8 bytes.length, if cap.toNat ≤ len.toNat then .okTruncated else .ok⟩ ∧
      t.evRx = false ∧ t.evTx = s₀.evTx ∧ t.evCrc = s₀.evCrc ∧ t.irqMask = s₀.irqMask ∧ t.mode = s₀.mode ∧
      t.seq = none ∧ t.inService = false ∧ t.cs = false := by
  obtain ⟨hevTx, hevCrc, hmode⟩ := h.kept
  have hread := h.length
  subst hread
  have hclamp : bytes.length = clampLen (sampleIrq s).recvLen cap := hlen
  rw [h.step, exec_recv_delivers h.sampled.position hclamp h.sampled.answers]
  exact ⟨_, rfl, rfl, rfl, rfl, h.consumed, hevTx, hevCrc, h.oldMask, hmode, rfl, h.position.2.1, rfl⟩

end RecvRun

/-- RECV's first step, from the offer: the length is read and the mask closed. -/
theorem recvRun_of_offer {s : State} {o : Offer} {rest : List (Option Offer)} {cap : Half} {r₀ len : Byte}
    {left : List Byte} (hready : s.ready) (hturn : s.mainsTurn) (hd : s.resetDone = true) (hev : s.evRx = true)
    (hin : s.hostIn = some o :: rest) (hword : o.word = 0x14000000 ||| cap.setWidth 32) (hcap : cap ≠ 0)
    (hans : s.answers ([r₀, len] ++ left)) :
    ∃ t, step s = .next t ∧ RecvRun cap len s 2 left t ∧
      t.trace = s.trace ++ bracketEvents [0x13, 0x00] [r₀, len] ++
        (if cap.toNat ≤ len.toNat then [.diag .truncatedReceive] else []) := by
  have hcode : encode (.recv cap) = .cmd o.word := by
    rw [hword]
    exact congrArg Code.cmd (or_setWidth_eq_commandWord 0x14 cap).symm
  have hread : decodeCommand o.word = .ok (.recv cap) :=
    decodeCommand_of_encode hcode (by simpa [Instr.wf] using hcap) nofun
  have hready' : ((sampleIrq s).takeOffer o rest).ready := hready
  have hans' : ((sampleIrq s).takeOffer o rest).answers [r₀, len] := State.answers_of_append (s := s) hans
  rw [step_offer hturn hready.2.2 hin hread, exec_recv_readsLength hcap hready' hd hev hans']
  exact ⟨_, rfl,
    { position := ⟨rfl, hready.2.1, rfl⟩
      noFrame := hturn.2.2.2
      answers := State.answers_afterTransaction (s := s) (sent := [0x13, 0x00]) (got := [r₀, len]) rfl hans
      length := rfl
      oldMask := rfl
      consumed := rfl
      kept := ⟨rfl, rfl, rfl⟩ }, rfl⟩

theorem wireGroups_pair_append (o₀ o₁ i₀ i₁ : Byte) (es : List Event) (sent : List Byte) :
    wireGroups (bracketEvents [o₀, o₁] [i₀, i₁] ++ es) sent = [o₀, o₁] :: wireGroups es [] :=
  wireGroups_bracket_append [o₀, o₁] [i₀, i₁] es sent rfl

/-- A diagnostic is no transaction. -/
theorem wireGroups_diagnostic_append (p : Prop) [Decidable p] (e : ErrorKind) (es : List Event) (sent : List Byte) :
    wireGroups ((if p then [.diag e] else []) ++ es) sent = wireGroups es sent := by
  split <;> rfl

/-- Settles O45: the offer's step, the two steps of the pointer, and the burst; the line gives no step away between
them. -/
theorem wholeRecv : Obligations.WholeRecv := by
  intro s o rest cap len p a₀ b₀ c₀ c₁ d₀ bytes hready hframe hd hm hev hin hword hcap hlen hans
  rw [List.append_assoc, List.append_assoc] at hans
  obtain ⟨t₁, hstep₁, h₁, htrace₁⟩ :=
    recvRun_of_offer hready ⟨hready.1, hready.2.1, hm, hframe⟩ hd hev hin hword hcap hans
  obtain ⟨t₂, hstep₂, h₂, rfl, htrace₂⟩ := h₁.readsPointer
  obtain ⟨t₃, hstep₃, h₃, htrace₃⟩ := h₂.writesPointer
  obtain ⟨t, hstep₄, htrace, hbuf, hresult, hrest⟩ := h₃.delivers (hlen.trans (clampLen_eq_min len cap).symm)
  have hrun := (core_run_succ hstep₁ 3).trans ((core_run_succ hstep₂ 2).trans ((core_run_succ hstep₃ 1).trans
    (core_run_one hstep₄)))
  refine ⟨t, bracketEvents [0x13, 0x00] [a₀, len] ++
    ((if cap.toNat ≤ len.toNat then [.diag .truncatedReceive] else []) ++
    (bracketEvents [0x10, 0x00] [b₀, t₂.recvPtr] ++ (bracketEvents [0x8D, t₂.recvPtr] [c₀, c₁] ++
      bracketEvents (0x00 :: List.replicate bytes.length 0x00) (d₀ :: bytes)))), hrun, ?trace, ?groups, ?off,
    fun x hx => ?buffer, hresult, hrest⟩
  case trace => rw [htrace, htrace₃, htrace₂, htrace₁]; simp only [List.append_assoc]
  case groups =>
    have hburst : (d₀ :: bytes).length = (0x00 :: List.replicate bytes.length 0x00 : List Byte).length := by simp
    have hlast := wireGroups_append_bracket [] hburst
    rw [List.nil_append] at hlast
    rw [wireGroups_pair_append, wireGroups_diagnostic_append, wireGroups_pair_append, wireGroups_pair_append, hlast]
    rfl
  case off =>
    simp only [offBus_append, offBus_bracket, List.nil_append, List.append_nil]
    split <;> rfl
  case buffer => rw [hbuf, Memory.read_writeRun, if_pos (by omega), Nat.sub_zero]

end Sys2Proof.Machine
end

section
/-! The identity check under the premises on a genuine radio (20_memory R84, 42_radio_driver R183, log entry 19). -/

namespace Sys2Proof.Machine

/-! ### What a completed transaction leaves on the trace -/

/-- The transfers of a run that completed stand on the trace with the bytes returned. -/
theorem xferAll_completed (outs : List Byte) (s : State) (h : (xferAll outs s).done = true) :
    (xferAll outs s).st.trace = s.trace ++ List.zipWith Event.xfer outs (xferAll outs s).got := by
  induction outs generalizing s with
  | nil => simp [xferAll]
  | cons b bs ih =>
    cases hr : s.nextReply with
    | none => simp [xferAll, hr] at h
    | some r =>
      simp only [xferAll, hr] at h ⊢
      rw [ih _ h, State.emit_trace, State.dropReply_trace, List.append_assoc]
      rfl

/-- A completed transaction is one bracket; what it returns is all but the reply to the header. -/
theorem transaction_completed {header : Byte} {outs : List Byte} {s : State}
    (h : (transaction header outs s).done = true) :
    ∃ r, (transaction header outs s).st.trace =
      s.trace ++ bracketEvents (header :: outs) (r :: (transaction header outs s).got) := by
  have hdone : (xferAll (header :: outs) s.sel).done = true := h
  obtain ⟨r, ins, hgot⟩ := List.exists_cons_of_length_eq_add_one (xferAll_length _ _ hdone)
  refine ⟨r, ?_⟩
  simp only [transaction, if_pos hdone]
  rw [State.desel_trace, xferAll_completed _ _ hdone, State.sel_trace, hgot, List.append_assoc, List.append_assoc]
  rfl

/-! ### A read of Version the premises allow (R84) -/

/-- A completed read of Version by a radio that obeys the premises returns the identity constant. -/
theorem version_of_follow {acts : List RadioAct} {r₀ v : Byte} {r : Radio}
    (hmem : RadioAct.transaction ⟨[0x42, 0x00], [r₀, v]⟩ ∈ acts) (h : (Radio.follow acts r).isSome = true) :
    v = Config.versionExpected := by
  induction acts generalizing r with
  | nil => cases hmem
  | cons x xs ih =>
    obtain ⟨r', hr'⟩ : ∃ r', r.act x = some r' := by
      cases hx : r.act x with
      | none => simp [Radio.follow, hx] at h
      | some r' => exact ⟨r', rfl⟩
    rcases List.mem_cons.mp hmem with rfl | hmem
    · have hread : r.readReg RadioReg.version.addr v = some r' := hr'
      rcases Radio.readReg_cases _ _ _ _ hread with ⟨-, hagrees, -⟩ | ⟨hlisted, -⟩
      · exact Radio.agrees_version r v hagrees
      · cases hlisted
    · rw [Radio.follow, hr'] at h
      exact ih hmem h

/-- Where INIT's last step completed, the trace ends in the read of Version, and the byte read decides. -/
theorem exec_init_version {s t : State} (hat : s.atStep .init 13) (hexec : exec .init s = .next t)
    (hcs : t.cs = false) :
    ∃ r₀ v u, t = identityCheck v u ∧ u.trace = s.trace ++ bracketEvents [0x42, 0x00] [r₀, v] := by
  have hread : memRead RadioReg.version.addr 1 s = transaction 0x42 [0x00] s := rfl
  rw [exec_init_atStep hat, initStep_version, hread] at hexec
  obtain rfl := Host.Outcome.next.inj hexec
  rcases andThen_cases 0x42 [0x00] s (fun got t => identityCheck (firstByte got) t) with
    ⟨hdone, -, he⟩ | ⟨-, hstuck, he⟩
  · obtain ⟨v, hgot⟩ := List.length_eq_one_iff.mp (transaction_length _ _ _ hdone)
    obtain ⟨r₀, htrace⟩ := transaction_completed hdone
    rw [hgot] at he htrace
    exact ⟨r₀, v, _, he, htrace⟩
  · rw [he] at hcs
    cases hstuck.symm.trans hcs

/-- Settles O35: the completed read is among the block's acts on the trace, so it is one the radio follows, and its
answer is the identity constant. -/
theorem genuineRadioPassesTheIdentityCheck : Obligations.GenuineRadioPassesTheIdentityCheck := by
  rintro s t acts hat hexec hcs ⟨hacts, hfollow⟩
  obtain ⟨r₀, v, u, rfl, htrace⟩ := exec_init_version hat hexec hcs
  rw [identityCheck_eq] at hacts
  have hblock : RadioAct.transaction ⟨[0x42, 0x00], [r₀, v]⟩ ∈ acts.filter RadioAct.isBlocks := by
    rw [hacts, htrace, traceActs_append_bracket s.trace [0x42, 0x00] [r₀, v] rfl]
    exact List.mem_append_right _ List.mem_cons_self
  obtain rfl := version_of_follow (List.mem_filter.mp hblock).1 hfollow
  exact ⟨rfl, rfl, rfl⟩

end Sys2Proof.Machine
end

section
/-! Who may write the owned mode, the event flags, the edge latch and `in_service` in a step (10_state R24 to R26,
41_mode_fsm R169, 43_event_decoder R201, R206). Every command but the running service follows one frame, said once: it
writes only its own modes, it raises no flag, and it leaves the latch and the service alone. -/

namespace Sys2Proof.Machine

/-! ### The frame of the commands -/

/-- From `s` to `t` the owned mode stays or comes to one of `modes`, and no event flag is raised. -/
structure State.RaisesNothing (modes : List Mode) (s t : State) : Prop where
  mode : t.mode = s.mode ∨ t.mode ∈ modes
  evTx : t.evTx = true → s.evTx = true
  evRx : t.evRx = true → s.evRx = true
  evCrc : t.evCrc = true → s.evCrc = true

/-- `t` comes from `s` by what a command may do: besides, the latch and the service are untouched. -/
structure State.Follows (modes : List Mode) (s t : State) : Prop extends s.RaisesNothing modes t where
  pending : t.irqPend = s.irqPend
  service : t.inService = s.inService

/-- The modes an instruction of the main context may write (41_mode_fsm R169). -/
def modeWrites : Instr → List Mode
  | .setmode m => [modeOf m]
  | .sleep => [.sleep]
  | .standby => [.standby]
  | .listen => [.receiveContinuous]
  | .reset => [.preSleep]
  | .init => [.preSleep, .sleep, .standby]
  | .send _ => [.standby, .transmit]
  | _ => []

section Follows
variable {modes : List Mode} {s t u : State}

/-- A step that leaves the six registers alone. -/
theorem State.Follows.of_same (mode : t.mode = s.mode := by rfl) (evTx : t.evTx = s.evTx := by rfl)
    (evRx : t.evRx = s.evRx := by rfl) (evCrc : t.evCrc = s.evCrc := by rfl)
    (pending : t.irqPend = s.irqPend := by rfl) (service : t.inService = s.inService := by rfl) :
    s.Follows modes t :=
  ⟨⟨.inl mode, fun h => evTx ▸ h, fun h => evRx ▸ h, fun h => evCrc ▸ h⟩, pending, service⟩

theorem State.Follows.refl (s : State) : s.Follows modes s := .of_same

theorem State.RaisesNothing.trans (h : s.RaisesNothing modes t) (h' : t.RaisesNothing modes u) :
    s.RaisesNothing modes u where
  mode := by
    rcases h'.mode with hu | hu
    · exact hu ▸ h.mode
    · exact .inr hu
  evTx := h.evTx ∘ h'.evTx
  evRx := h.evRx ∘ h'.evRx
  evCrc := h.evCrc ∘ h'.evCrc

theorem State.Follows.trans (h : s.Follows modes t) (h' : t.Follows modes u) : s.Follows modes u :=
  ⟨h.toRaisesNothing.trans h'.toRaisesNothing, h'.pending.trans h.pending, h'.service.trans h.service⟩

theorem State.RaisesNothing.mode_eq (h : s.RaisesNothing [] t) : t.mode = s.mode := h.mode.resolve_right nofun

theorem State.follows_finish (s : State) (r : Result) : s.Follows modes (s.finish r) :=
  .of_same

theorem State.follows_advance (s : State) (i : Instr) (k : Nat) : s.Follows modes (s.advance i k) :=
  .of_same

theorem State.follows_withMode (s : State) {m : Mode} (hm : m ∈ modes) : s.Follows modes { s with mode := m } where
  mode := .inr hm
  evTx := id
  evRx := id
  evCrc := id
  pending := rfl
  service := rfl

theorem State.follows_clearFlag (s : State) (k : EventKind) : s.Follows modes (s.setFlag k false) := by
  cases k with
  | txDone => exact ⟨⟨.inl rfl, nofun, id, id⟩, rfl, rfl⟩
  | rxDone => exact ⟨⟨.inl rfl, id, nofun, id⟩, rfl, rfl⟩
  | crcError => exact ⟨⟨.inl rfl, id, id, nofun⟩, rfl, rfl⟩

theorem State.follows_resetSequence (s : State) (hm : .preSleep ∈ modes) : s.Follows modes s.resetSequence :=
  { s.follows_withMode hm with }

/-! ### Transactions in the frame -/

theorem transaction_follows (header : Byte) (outs : List Byte) (s : State) :
    s.Follows modes (transaction header outs s).st := by
  obtain ⟨tr, rs, n, h⟩ := transaction_frame header outs s
  rw [h]
  exact .of_same

theorem BusRun.andThen_follows {r : BusRun} {f : List Byte → State → State} (hr : s.Follows modes r.st)
    (hf : ∀ got (t : State), t.Follows modes (f got t)) : s.Follows modes (r.andThen f) := by
  unfold BusRun.andThen
  split
  · exact hr.trans (hf _ _)
  · exact hr

theorem transaction_andThen_follows {header : Byte} {outs : List Byte} {f : List Byte → State → State}
    (hf : ∀ got (t : State), t.Follows modes (f got t)) : s.Follows modes ((transaction header outs s).andThen f) :=
  BusRun.andThen_follows (transaction_follows header outs s) hf

theorem burstToHost_andThen_follows {n : Nat} {f : List Byte → State → State}
    (hf : ∀ got (t : State), t.Follows modes (f got t)) : s.Follows modes ((burstToHost n s).andThen f) :=
  have hread : s.Follows modes (memRead RadioReg.fifo.addr n s).st := transaction_follows _ _ s
  BusRun.andThen_follows { hread with } hf

theorem setModeThen_follows {m : RadioMode} {f : State → State} (hm : modeOf m ∈ modes)
    (hf : ∀ t : State, t.Follows modes (f t)) : s.Follows modes (setModeThen m f s) :=
  transaction_andThen_follows fun _ t => (t.follows_withMode hm).trans (hf _)

theorem performFrame_follows {reads : Bool} {header : Byte} {outs : List Byte} :
    s.Follows modes (performFrame reads (transaction header outs) s) := by
  unfold performFrame
  split
  · exact .refl s
  · exact { transaction_follows (modes := modes) header outs s with }

/-! ### The steps of the commands in the frame -/

theorem runCommand_follows {i : Instr} {first : Nat} {gate : State → Option Decline} {body : Nat → State → State}
    (hbody : ∀ k (t : State), t.Follows modes (body k t)) : s.Follows modes (runCommand i first gate body s) := by
  rcases runCommand_cases i first gate body s with he | ⟨-, d, -, he⟩ | ⟨-, -, he⟩ | ⟨k, -, he⟩
  · rw [he]; exact .refl s
  · rw [he]; exact .of_same
  · rw [he]; exact { hbody first (s.accept i first) with }
  · rw [he]; exact hbody k s

/-- A command whose only step is step 1. -/
theorem runCommand_follows_onlyStep {i : Instr} {gate : State → Option Decline} {body : Nat → State → State}
    (hone : ∀ t : State, t.Follows modes (body 1 t)) (hzero : ∀ t, body 0 t = t := by intros; rfl)
    (hlater : ∀ k t, body (k + 2) t = t := by intros; rfl) : s.Follows modes (runCommand i 1 gate body s) := by
  refine runCommand_follows fun k t => ?_
  match k with
  | 0 => rw [hzero]; exact .refl t
  | 1 => exact hone t
  | k + 2 => rw [hlater]; exact .refl t

theorem modeCommand_follows {i : Instr} {m : RadioMode} (hm : modeOf m ∈ modes) :
    s.Follows modes (runCommand i 1 busAdmission (setmodeStep m) s) :=
  runCommand_follows_onlyStep fun _ => setModeThen_follows hm fun t => t.follows_finish _

end Follows

theorem initStep_follows (k : Nat) (s : State) : s.Follows (modeWrites .init) (initStep k s) := by
  unfold initStep
  split
  · exact { s.follows_resetSequence (modes := modeWrites .init) (by simp [modeWrites]) with }
  · exact setModeThen_follows (by simp [modeWrites, modeOf]) fun t => t.follows_advance _ _
  · exact setModeThen_follows (by simp [modeWrites, modeOf]) fun t => t.follows_advance _ _
  · refine transaction_andThen_follows fun got t => ?_
    rw [identityCheck_eq]
    exact .of_same
  · split
    · exact transaction_andThen_follows fun _ t => t.follows_advance _ _
    · exact .refl s

theorem sendStep_follows (len : Half) (k : Nat) (s : State) :
    s.Follows (modeWrites (.send len)) (sendStep len k s) := by
  unfold sendStep
  split
  · split
    · exact s.follows_finish _
    · exact setModeThen_follows (by simp [modeWrites, modeOf]) fun t => t.follows_advance _ _
  · exact transaction_andThen_follows fun _ t => t.follows_advance _ _
  · exact transaction_andThen_follows fun _ t => t.follows_advance _ _
  · exact transaction_andThen_follows fun _ t => t.follows_advance _ _
  · exact setModeThen_follows (by simp [modeWrites, modeOf]) fun t => t.follows_finish _
  · exact .refl s

theorem recvStep_follows {modes : List Mode} (cap : Half) (k : Nat) (s : State) :
    s.Follows modes (recvStep cap k s) := by
  unfold recvStep
  split
  · split
    · have hopen : s.Follows modes { s.openMask with evRx := false } := { s.follows_clearFlag .rxDone with }
      refine hopen.trans (transaction_andThen_follows fun got t => ?_)
      rw [recvLength_eq]
      exact .of_same
    · exact s.follows_finish _
  · exact transaction_andThen_follows fun _ t => .of_same
  · exact transaction_andThen_follows fun _ t => t.follows_advance _ _
  · exact burstToHost_andThen_follows fun _ t => .of_same
  · exact .refl s

theorem irqsvcStep_of_idle {s : State} (hsvc : s.inService = false) (hm : s.serviceMayStart = false) :
    irqsvcStep s = s := by
  simp [irqsvcStep, hsvc, hm]

/-- Every instruction keeps the frame of the commands, IRQSVC where no service runs or may start. -/
theorem exec_follows {i : Instr} {s t : State}
    (hidle : i = .irqsvc → s.inService = false ∧ s.serviceMayStart = false) (h : exec i s = .next t) :
    s.Follows (modeWrites i) t := by
  cases i with
  | wrreg a v =>
    cases h
    exact runCommand_follows_onlyStep fun _ => transaction_andThen_follows fun _ t => t.follows_finish _
  | rdreg a =>
    cases h
    exact runCommand_follows_onlyStep fun _ => transaction_andThen_follows fun _ t => t.follows_finish _
  | wrfifo n =>
    cases h
    exact runCommand_follows_onlyStep fun _ => transaction_andThen_follows fun _ t => t.follows_finish _
  | rdfifo n =>
    cases h
    exact runCommand_follows_onlyStep fun _ => burstToHost_andThen_follows fun _ t => t.follows_finish _
  | reset =>
    cases h
    exact runCommand_follows_onlyStep fun t =>
      { t.follows_resetSequence (modes := modeWrites .reset) (by simp [modeWrites]) with }
  | init => cases h; exact runCommand_follows initStep_follows
  | setmode m => cases h; exact modeCommand_follows (by simp [modeWrites])
  | sleep => cases h; exact modeCommand_follows (by simp [modeWrites, modeOf])
  | standby => cases h; exact modeCommand_follows (by simp [modeWrites, modeOf])
  | listen => cases h; exact modeCommand_follows (by simp [modeWrites, modeOf])
  | send len => cases h; exact runCommand_follows (sendStep_follows len)
  | recv cap => cases h; exact runCommand_follows (recvStep_follows cap)
  | evtake k =>
    cases h
    exact runCommand_follows_onlyStep fun t => (t.follows_clearFlag k).trans (State.follows_finish _ _)
  | evclear k =>
    cases h
    exact runCommand_follows_onlyStep fun t => (t.follows_clearFlag k).trans (State.follows_finish _ _)
  | evpeek k =>
    cases h
    exact runCommand_follows_onlyStep fun t => t.follows_finish _
  | irqmask b =>
    cases h
    exact runCommand_follows_onlyStep fun _ => .of_same
  | w1 a v => cases h; exact performFrame_follows
  | r1 a d => cases h; exact performFrame_follows
  | wb data =>
    cases h
    split
    · exact performFrame_follows
    · exact .of_same
  | rb n => cases h; exact performFrame_follows
  | irqsvc =>
    obtain ⟨hsvc, hm⟩ := hidle rfl
    cases h
    rw [irqsvcStep_of_idle hsvc hm]
    exact .refl s

/-! ### The service in the frame -/

/-- The first transaction of the service: only the flags byte is new (43_event_decoder R202). -/
theorem serviceRead_follows {modes : List Mode} (s : State) : s.Follows modes (serviceRead s) :=
  transaction_andThen_follows fun _ _ => .of_same

theorem serviceRead_seq (s : State) : (serviceRead s).seq = s.seq := by
  obtain ⟨tr, rs, n, h⟩ := transaction_frame (readHeader RadioReg.irqFlags.addr) [Config.dummy] s
  have hseq : (transaction (readHeader RadioReg.irqFlags.addr) [Config.dummy] s).st.seq = s.seq := by
    rw [h, State.withBus_seq]
  unfold serviceRead BusRun.andThen
  split <;> exact hseq

/-- The second transaction of the service: stuck, or the event of the byte held takes effect and the service ends. -/
theorem serviceClear_cases (f : Byte) (s : State) :
    s.RaisesNothing [] (serviceClear f s) ∨
      ∃ u, s.RaisesNothing [] u ∧ serviceClear f s = (applyEvent (decodeEvent f) u).leaveService := by
  have hwrite : s.Follows [] (memWrite RadioReg.irqFlags.addr [0xFF] s).st := transaction_follows _ _ s
  unfold serviceClear BusRun.andThen
  split
  · exact .inr ⟨_, hwrite.toRaisesNothing, rfl⟩
  · exact .inl hwrite.toRaisesNothing

/-- The end of a service: the event of the byte held has taken effect, from a state that raised nothing since `s`. -/
def State.EndsService (s t : State) : Prop :=
  ∃ f u, s.inService = true ∧ s.svcFlags = some f ∧ s.RaisesNothing [] u ∧
    t = (applyEvent (decodeEvent f) u).leaveService

/-- A step of IRQSVC raises nothing, or it is the end of a service (43_event_decoder R202). -/
theorem irqsvcStep_cases (s : State) : s.RaisesNothing [] (irqsvcStep s) ∨ s.EndsService (irqsvcStep s) := by
  unfold irqsvcStep
  split
  · exact .inl (State.Follows.refl s).toRaisesNothing
  · split
    · next hsvc =>
      split
      · next f hf =>
        rcases serviceClear_cases f s with h | ⟨u, hu, he⟩
        · exact .inl h
        · exact .inr ⟨f, u, hsvc, hf, hu, he⟩
      · exact .inl (serviceRead_follows s).toRaisesNothing
    · split
      · have hread : s.enterService.RaisesNothing [] (serviceRead s.enterService) :=
          (serviceRead_follows _).toRaisesNothing
        exact .inl { hread with }
      · exact .inl (State.Follows.refl s).toRaisesNothing

/-! ### The step in the frame -/

/-- Where an instruction of the main context comes from: a placed frame, the running command, or the host's offer. -/
def State.Gives (s : State) (i : Instr) : Prop :=
  (∃ bytes, decodeFrame bytes = .ok i) ∨ (∃ p, s.seq = some p ∧ p.cmd = i) ∨
    (s.seq = none ∧ ∃ o rest, s.hostIn = some o :: rest ∧ decodeCommand o.word = .ok i)

/-- Where no service runs or may start, the arbiter gives the step to an instruction of the main context or to nobody,
and touches the ports only. -/
theorem arbitrate_main {s : State} (hsvc : s.inService = false) (hm : s.serviceMayStart = false) :
    ∃ o u, arbitrate s = (o, u) ∧ (∀ modes, s.Follows modes u) ∧ u.serviceMayStart = false ∧
      ∀ i, o = some i → s.Gives i := by
  have hsame (modes : List Mode) := State.Follows.refl (modes := modes) s
  rcases arbitrate_cases s with ⟨-, he⟩ | ⟨-, hserves, -⟩ |
    ⟨-, -, -, ⟨bytes, -, he⟩ | ⟨-, p, hp, he⟩ | ⟨-, hseq, he⟩⟩
  · exact ⟨_, _, he, hsame, hm, nofun⟩
  · simp [hsvc, hm] at hserves
  · rw [he]
    unfold fetchFrame
    split
    · next i hi => exact ⟨_, _, rfl, fun _ => .of_same, hm, fun _ h => .inl ⟨bytes, Option.some.inj h ▸ hi⟩⟩
    · exact ⟨_, _, rfl, fun _ => .of_same, hm, nofun⟩
  · exact ⟨_, _, he, hsame, hm, fun _ h => .inr (.inl ⟨p, hp, Option.some.inj h⟩)⟩
  · rw [he]
    unfold fetchOffer
    split
    · exact ⟨_, _, rfl, hsame, hm, nofun⟩
    · exact ⟨_, _, rfl, fun _ => .of_same, hm, nofun⟩
    · next o rest hin =>
      split
      · next i hi =>
        exact ⟨_, _, rfl, fun _ => .of_same, hm,
          fun _ h => .inr (.inr ⟨hseq, o, rest, hin, Option.some.inj h ▸ hi⟩)⟩
      · exact ⟨_, _, rfl, fun _ => .of_same, hm, nofun⟩

/-- A step of the main context: of nobody, or of an instruction it gives, from a state with the same mode. -/
theorem step_main {s t : State} (hsvc : s.inService = false) (hm : (sampleIrq s).serviceMayStart = false)
    (h : step s = .next t) :
    (sampleIrq s).Follows [] t ∨
      ∃ i u, s.Gives i ∧ arbitrate (sampleIrq s) = (some i, u) ∧ exec i u = .next t ∧ u.mode = s.mode ∧
        (sampleIrq s).Follows (modeWrites i) t := by
  obtain ⟨o, u, he, hfrom, hum, hgives⟩ := arbitrate_main (s := sampleIrq s) hsvc hm
  rw [step, he] at h
  cases o with
  | none =>
    cases h
    exact .inl (hfrom [])
  | some i =>
    have hfollows := exec_follows (fun _ => ⟨(hfrom []).service.trans hsvc, hum⟩) h
    exact .inr ⟨i, u, hgives i rfl, he, h, (hfrom []).mode_eq, (hfrom _).trans hfollows⟩

/-- A step of the service raises nothing, or ends the service. -/
theorem step_serves {s t : State} (hserves : s.inService = true ∨ (sampleIrq s).serviceMayStart = true)
    (h : step s = .next t) :
    s.RaisesNothing [] t ∨
      (arbitrate (sampleIrq s) = (some .irqsvc, sampleIrq s) ∧ exec .irqsvc (sampleIrq s) = .next t ∧
        s.EndsService t) := by
  cases hcs : s.cs with
  | true =>
    cases (step_stuck hcs).symm.trans h
    exact .inl { State.Follows.refl (modes := []) s with }
  | false =>
    have hexec : exec .irqsvc (sampleIrq s) = .next t := (step_service hcs hserves).symm.trans h
    obtain rfl : irqsvcStep (sampleIrq s) = t := Host.Outcome.next.inj hexec
    rcases irqsvcStep_cases (sampleIrq s) with hsame | ⟨f, u, hsvc, hf, hu, he⟩
    · exact .inl { hsame with }
    · exact .inr ⟨arbitrate_service (s := sampleIrq s) hcs hserves, hexec, f, u, hsvc, hf, { hu with }, he⟩

/-- Every step, as far as the mode and the event flags go: nothing is raised, the end of a service, or an instruction of
the main context. -/
theorem step_cases {s t : State} (h : step s = .next t) :
    s.RaisesNothing [] t ∨
      (arbitrate (sampleIrq s) = (some .irqsvc, sampleIrq s) ∧ exec .irqsvc (sampleIrq s) = .next t ∧
        s.EndsService t) ∨
      ∃ i u, s.Gives i ∧ arbitrate (sampleIrq s) = (some i, u) ∧ exec i u = .next t ∧ u.mode = s.mode ∧
        s.RaisesNothing (modeWrites i) t := by
  by_cases hserves : s.inService = true ∨ (sampleIrq s).serviceMayStart = true
  · rcases step_serves hserves h with hsame | hends
    · exact .inl hsame
    · exact .inr (.inl hends)
  · obtain ⟨hsvc, hm⟩ := not_or.mp hserves
    rcases step_main (eq_false_of_ne_true hsvc) (eq_false_of_ne_true hm) h with hsame | ⟨i, u, hi, he, hexec, hu, hfrom⟩
    · exact .inl { hsame with }
    · exact .inr (.inr ⟨i, u, hi, he, hexec, hu, { hfrom with }⟩)

/-! ### The owned mode (R169) -/

/-- The end of a service moves the mode only along the automatic edge (41_mode_fsm R164). -/
theorem State.EndsService.mode {s t : State} (h : s.EndsService t) (hmode : t.mode ≠ s.mode) :
    s.inService = true ∧ s.mode = .transmit ∧ t.mode = .standby ∧ t.evTx = true := by
  obtain ⟨f, u, hsvc, -, hu, rfl⟩ := h
  rw [applyEvent_eq] at hmode ⊢
  have hum := hu.mode_eq
  by_cases he : decodeEvent f = .transmitDone
  · by_cases htx : s.mode = .transmit
    · simp [hsvc, he, hum, htx, autoEdge, State.leaveService]
    · simp [he, hum, htx, autoEdge, State.leaveService] at hmode
  · simp [he, hum, State.leaveService] at hmode

theorem modeWrites_of_decodeFrame {bytes : List Byte} {i : Instr} (h : decodeFrame bytes = .ok i) :
    modeWrites i = [] := by
  unfold decodeFrame at h
  repeat' split at h
  all_goals cases h
  all_goals rfl

/-- Settles O14: a step that moves the mode is the end of a service on the automatic edge, or one of the instructions
with a mode to write, and no frame has one. -/
theorem modeHasOnlyItsWriters : Obligations.ModeHasOnlyItsWriters := by
  intro s t h hmode
  rcases step_cases h with hsame | ⟨he, hexec, hends⟩ | ⟨i, u, hgives, he, hexec, hu, hfrom⟩
  · exact absurd hsame.mode_eq hmode
  · have hedge := hends.mode hmode
    exact ⟨.irqsvc, _, he, hexec, rfl, .inl ⟨rfl, hedge.1⟩, by simp [hedge]⟩
  · have hwrites := hfrom.mode.resolve_left hmode
    refine ⟨i, u, he, hexec, hu, ?source, ?writer⟩
    case source =>
      rcases hgives with ⟨bytes, hb⟩ | hrunning | hoffered
      · rw [modeWrites_of_decodeFrame hb] at hwrites
        cases hwrites
      · exact .inr (.inl hrunning)
      · exact .inr (.inr hoffered)
    case writer =>
      cases i with
      | setmode | sleep | standby | listen | reset | init | send => simpa [modeWrites] using hwrites
      | _ => cases hwrites

/-! ### The event flags (R206) -/

section Decode
variable {rx crc tx f : Byte}

/-- The cases of the decode: exactly one of the CRC and receive bits, or the transmit bit decides (43_event_decoder
R204). -/
theorem decodeWith_cases (rx crc tx f : Byte) :
    (f &&& crc ≠ 0 ∧ f &&& rx = 0 ∧ decodeWith rx crc tx f = .crcError) ∨
      (f &&& rx ≠ 0 ∧ f &&& crc = 0 ∧ decodeWith rx crc tx f = .receiveDone) ∨
      ((f &&& crc = 0 ↔ f &&& rx = 0) ∧ decodeWith rx crc tx f = if f &&& tx = 0 then .none else .transmitDone) := by
  by_cases hcrc : f &&& crc = 0
  · by_cases hrx : f &&& rx = 0
    · exact .inr (.inr ⟨iff_of_true hcrc hrx, decodeWith_of_iff (iff_of_true hcrc hrx)⟩)
    · exact .inr (.inl ⟨hrx, hcrc, decodeWith_receiveDone hrx hcrc⟩)
  · by_cases hrx : f &&& rx = 0
    · exact .inl ⟨hcrc, hrx, decodeWith_crcError hcrc hrx⟩
    · exact .inr (.inr ⟨iff_of_false hcrc hrx, decodeWith_of_iff (iff_of_false hcrc hrx)⟩)

theorem of_decodeWith_transmitDone (h : decodeWith rx crc tx f = .transmitDone) :
    f &&& tx ≠ 0 ∧ (f &&& crc = 0 ↔ f &&& rx = 0) := by
  rcases decodeWith_cases rx crc tx f with ⟨-, -, he⟩ | ⟨-, -, he⟩ | ⟨hiff, he⟩
  · cases he.symm.trans h
  · cases he.symm.trans h
  · refine ⟨fun htx => ?_, hiff⟩
    rw [if_pos htx] at he
    cases he.symm.trans h

theorem of_decodeWith_receiveDone (h : decodeWith rx crc tx f = .receiveDone) : f &&& rx ≠ 0 ∧ f &&& crc = 0 := by
  rcases decodeWith_cases rx crc tx f with ⟨-, -, he⟩ | ⟨hrx, hcrc, -⟩ | ⟨-, he⟩
  · cases he.symm.trans h
  · exact ⟨hrx, hcrc⟩
  · rw [h] at he
    split at he <;> cases he

theorem of_decodeWith_crcError (h : decodeWith rx crc tx f = .crcError) : f &&& crc ≠ 0 ∧ f &&& rx = 0 := by
  rcases decodeWith_cases rx crc tx f with ⟨hcrc, hrx, -⟩ | ⟨-, -, he⟩ | ⟨-, he⟩
  · exact ⟨hcrc, hrx⟩
  · cases he.symm.trans h
  · rw [h] at he
    split at he <;> cases he

end Decode

/-- A flag that a step raised was raised by the event of a service's byte. -/
theorem endsService_of_raised {s t : State} {e : IrqEvent} {flag : State → Bool}
    (hsame : ∀ {modes} {u : State}, s.RaisesNothing modes u → flag u = true → flag s = true)
    (hevent : ∀ e' u, flag (applyEvent e' u).leaveService = (flag u || e' == e)) (h : step s = .next t)
    (hs : flag s = false) (ht : flag t = true) :
    ∃ f, s.inService = true ∧ s.svcFlags = some f ∧ decodeEvent f = e := by
  have hnot {modes : List Mode} {u : State} (hu : s.RaisesNothing modes u) : flag u ≠ true :=
    fun hflag => absurd (hs.symm.trans (hsame hu hflag)) Bool.false_ne_true
  rcases step_cases h with hstep | ⟨-, -, f, u, hsvc, hf, hu, rfl⟩ | ⟨i, u, -, -, -, -, hstep⟩
  · exact absurd ht (hnot hstep)
  · refine ⟨f, hsvc, hf, ?_⟩
    rw [hevent] at ht
    simpa [hnot hu] using ht
  · exact absurd ht (hnot hstep)

/-- Settles O15: only the end of a service raises a flag, and the byte's decode says which bits it had. -/
theorem eventFlagsAreSetOnlyByTheService : Obligations.EventFlagsAreSetOnlyByTheService := by
  intro s t h
  refine ⟨fun hs ht => ?_, fun hs ht => ?_, fun hs ht => ?_⟩
  · obtain ⟨f, hsvc, hf, he⟩ := endsService_of_raised (e := .transmitDone) (flag := State.evTx)
      (·.evTx) (fun e u => by rw [applyEvent_eq]; rfl) h hs ht
    exact ⟨f, hsvc, hf, he, of_decodeWith_transmitDone he⟩
  · obtain ⟨f, hsvc, hf, he⟩ := endsService_of_raised (e := .receiveDone) (flag := State.evRx)
      (·.evRx) (fun e u => by rw [applyEvent_eq]; rfl) h hs ht
    exact ⟨f, hsvc, hf, he, of_decodeWith_receiveDone he⟩
  · obtain ⟨f, hsvc, hf, he⟩ := endsService_of_raised (e := .crcError) (flag := State.evCrc)
      (·.evCrc) (fun e u => by rw [applyEvent_eq]; rfl) h hs ht
    exact ⟨f, hsvc, hf, he, of_decodeWith_crcError he⟩

/-! ### The start of the service (R201) -/

theorem seqAllowsService_of_outside {p : SeqPos} (hreset : p.cmd ≠ .reset) (hrecv : p.inRecv = false)
    (hinit : p.cmd = .init → p.step ≠ 0) : seqAllowsService (some p) = true := by
  obtain ⟨i, k⟩ := p
  cases i with
  | reset => exact absurd rfl hreset
  | recv cap => cases hrecv
  | init => simpa [seqAllowsService] using hinit rfl
  | _ => rfl

theorem not_seqAllowsService {p : SeqPos} (h : p.cmd = .reset ∨ p.inRecv = true ∨ (p.cmd = .init ∧ p.step = 0)) :
    seqAllowsService (some p) = false := by
  obtain ⟨i, k⟩ := p
  rcases h with rfl | hrecv | ⟨rfl, rfl⟩
  · rfl
  · cases i <;> cases hrecv
    rfl
  · rfl

/-- Settles O9: with every condition met the step is the service's entry and its read; with one of them failing it is
the main context's, which leaves the latch and the service alone. -/
theorem serviceStartsExactlyWhenAllowed : Obligations.ServiceStartsExactlyWhenAllowed := by
  constructor
  · intro s hedge hmask hsvc hd hcs hseq
    have hallow : seqAllowsService s.seq = true := by
      rcases hseq with hnone | ⟨p, hp, hreset, hrecv, hinit⟩
      · rw [hnone]; rfl
      · rw [hp]; exact seqAllowsService_of_outside hreset hrecv hinit
    have hm : (sampleIrq s).serviceMayStart = true := (serviceMayStart_iff _).mpr ⟨hd, hcs, hsvc, hmask, hedge, hallow⟩
    have hread : (sampleIrq s).enterService.Follows [] (serviceRead (sampleIrq s).enterService) := serviceRead_follows _
    rw [step_service hcs (.inr hm), exec_irqsvc, irqsvcStep_of_mayStart hm]
    exact ⟨_, rfl, hread.service, hread.pending, serviceRead_seq _, serviceRead_hostIn _⟩
  · intro s t h hsvc hfails
    have hm : (sampleIrq s).serviceMayStart = false := by
      rw [Bool.eq_false_iff, Ne, serviceMayStart_iff]
      rintro ⟨hd, hcs, -, hmask, hedge, hallow⟩
      rcases hfails with hf | hf | hf | hf | ⟨p, hp, hf⟩
      · exact absurd (hf.symm.trans hedge) Bool.false_ne_true
      · exact absurd (hmask.symm.trans hf) Bool.false_ne_true
      · exact absurd (hf.symm.trans hd) Bool.false_ne_true
      · exact absurd (hcs.symm.trans hf) Bool.false_ne_true
      · rw [sampleIrq_seq, hp, not_seqAllowsService hf] at hallow
        cases hallow
    rcases step_main hsvc hm h with hsame | ⟨i, u, -, -, -, -, hfrom⟩
    · exact ⟨hsame.service.trans hsvc, hsame.pending⟩
    · exact ⟨hfrom.service.trans hsvc, hfrom.pending⟩

end Sys2Proof.Machine
end
